-- ==== Sys2Proof/Word.lean ====
section
/-! DEFINITION. The word types of the block: a byte, the 16-bit length and counter, and a 3-bit port code
(00_scope section 5, 10_state R10 to R15). Everything is unsigned. -/

namespace Sys2Proof

/-- 8 bits, 0..255: a raw byte, a logical byte, the accumulator. -/
abbrev Byte := BitVec 8

/-- 16 bits: the length field `L` and the counter `rem`. -/
abbrev Half := BitVec 16

/-- The 3 bits of the ports `ev_err` and `ev_tag`. -/
abbrev Code3 := BitVec 3

end Sys2Proof
end

