-- ==== Sys2Proof/Config.lean ====
section
/-! DEFINITION. The constants the document fixes (00_scope R4) and the type of the one parameter it leaves open,
`MAX_LEN` (00_scope R5). -/

namespace Sys2Proof

/-- Start marker (R4). -/
def Config.start : Byte := 0x7E
/-- Escape marker (R4). -/
def Config.escMark : Byte := 0x7D
/-- Unstuffing constant (R4). -/
def Config.xmask : Byte := 0x20
/-- The values a sender escapes (R4). -/
def Config.escapable : List Byte := [0x7E, 0x7D, 0x11, 0x13]
/-- The checksum is this minus the sum (R4). -/
def Config.ckBase : Byte := 0xFF
/-- Frame type bytes (R4, 30_encoding R57). -/
def Config.tReceive : Byte := 0x90
def Config.tTxStatus : Byte := 0x8B
def Config.tAtResp : Byte := 0x88
/-- Named by the document as "outbound only" (R57). -/
def Config.tRAtReq : Byte := 0x17
def Config.tRAtResp : Byte := 0x97

/-- An admissible `MAX_LEN`: a natural number with `1 <= MAX_LEN <= 65534` (R5). The type excludes every other
value (93_implementation_defined U2). -/
structure MaxLen where
  value : Nat
  one_le : 1 ≤ value
  le_max : value ≤ 65534
deriving DecidableEq, Repr

/-- The value `State.reset` holds, the one the spec's own vectors use (95_test_vectors section 0).
DESIGN CHOICE (log 5), unsafe: the spec leaves `MAX_LEN` open, and no statement rests on this number. -/
def Config.resetMaxLen : MaxLen := ⟨255, by decide, by decide⟩

end Sys2Proof
end

