-- ==== Sys2Proof/Syntax.lean ====
section
/-! DEFINITION. The input items, the names the block uses, and `Instr`: one constructor per row of
spec/opcode_table.json. -/

namespace Sys2Proof

/-- The control state `st` (10_state R11). `Done` is not a stored value (R17). -/
inductive Ctrl where
  | waitStart | readLengthHigh | readLengthLow | readBody
deriving DecidableEq, Repr

/-- What one step consumes (00_scope R7). -/
inductive Item where
  | byte (b : Byte)
  | eos
  | reset
  | none
deriving DecidableEq, Repr

/-- The variant tags (10_state R24). -/
inductive Tag where
  | receive | transmissionStatus | atResponse | remoteAtResponse | unknown
deriving DecidableEq, Repr

/-- The four error events (60_exceptions R140). -/
inductive ErrCode where
  | checksumError | frameTooLarge | escapeSequenceError | emptyFrame
deriving DecidableEq, Repr

/-- What a checksum function is applied to: a byte sequence, or the accumulator register (40_checksum R72, R73
give both forms). -/
inductive CkSource where
  | seq (s : List Byte)
  | register
deriving DecidableEq, Repr

/-- One constructor per row of the opcode table. A docstring names the row and its rule. -/
inductive Instr where
  /-- RESET, item `Reset` (70_reset R160). -/
  | reset
  /-- UN_EOS, item `Eos` (41_unstuffer R84). -/
  | unEos
  /-- NOBYTE, item `None` (42_reassembler R101). -/
  | noByte
  /-- WS_START, raw 0x7E in `WaitStart` (R91). -/
  | wsStart
  /-- WS_SKIP, any other raw byte in `WaitStart` (R90). -/
  | wsSkip (b : Byte)
  /-- UN_BYPASS, a raw byte through the inactive unstuffer (R83). -/
  | unBypass (b : Byte)
  /-- UN_ESC, raw 0x7D in a frame (R80). -/
  | unEsc
  /-- UN_XOR, the raw byte after an escape marker (R81). -/
  | unXor (b : Byte)
  /-- UN_PASS, a raw byte taken unchanged (R82). -/
  | unPass (b : Byte)
  /-- ESCPAIR_7E, raw `7D 5E` (30_encoding R54). -/
  | escPair7E
  /-- ESCPAIR_7D, raw `7D 5D` (R54). -/
  | escPair7D
  /-- ESCPAIR_11, raw `7D 31` (R54). -/
  | escPair11
  /-- ESCPAIR_13, raw `7D 33` (R54). -/
  | escPair13
  /-- ESCPAIR_ANY, raw `7D b` (R81). -/
  | escPairAny (b : Byte)
  /-- RLH_BYTE, the high length byte (R92). -/
  | rlhByte (v : Byte)
  /-- RLL_ACCEPT, a low length byte that gives `L <= MAX_LEN` (R93). -/
  | rllAccept (v : Byte)
  /-- RLL_TOOLARGE, a low length byte that gives `L > MAX_LEN` (R94). -/
  | rllTooLarge (v : Byte)
  /-- RB_STORE, a type or body byte (R95). -/
  | rbStore (v : Byte)
  /-- RB_LAST, the checksum byte (R96). -/
  | rbLast (v : Byte)
  /-- DONE_OK, completion of a valid frame by the checksum byte `c` (R97). -/
  | doneOk (c : Byte)
  /-- DONE_BADCK, completion of a corrupt frame (R98). -/
  | doneBadCk (c : Byte)
  /-- DONE_EMPTY, completion of a valid frame without a type byte (R99). -/
  | doneEmpty (c : Byte)
  /-- CK_CLEAR (R70). -/
  | ckClear
  /-- CK_ADD (R71). -/
  | ckAdd (v : Byte)
  /-- CK_VALUE (R72). -/
  | ckValue (src : CkSource)
  /-- CK_CHECK (R73). -/
  | ckCheck (src : CkSource) (c : Byte)
  /-- FRAME, a whole logical frame: its length field and its counted span (R50 to R53). -/
  | frame (len : Half) (span : List Byte)
  /-- TYPE_Receive with the body that follows the type byte (R115). -/
  | typeReceive (body : List Byte)
  /-- TYPE_TransmissionStatus (R116). -/
  | typeTransmissionStatus (body : List Byte)
  /-- TYPE_ATResponse (R117). -/
  | typeAtResponse (body : List Byte)
  /-- TYPE_RemoteATResponse (R118). -/
  | typeRemoteAtResponse (body : List Byte)
  /-- TYPE_RemoteATRequest_outbound, 0x17 when received (R57, R119). -/
  | typeRemoteAtRequestOutbound (body : List Byte)
  /-- TYPE_Unknown, any type byte that is none of the four (R119). -/
  | typeUnknown (t : Byte) (body : List Byte)
  /-- DISPATCH (R110). -/
  | dispatch (t : Byte)
  /-- STUFF (44_reference_encoder R130). -/
  | stuff (s : List Byte)
  /-- FRAME_ENC, the reference encoder `FRAME(T, B)` (R131). -/
  | frameEnc (t : Byte) (body : List Byte)
  /-- FRAME_RAWLEN, the variant encoder (R133). -/
  | frameRawLen (t : Byte) (body : List Byte)
  /-- ERR_ChecksumError, code 1 on `ev_err` (R140, R98). -/
  | errChecksumError
  /-- ERR_FrameTooLarge, code 2 (R140, R94). -/
  | errFrameTooLarge
  /-- ERR_EscapeSequenceError, code 3 (R140, R84). -/
  | errEscapeSequenceError
  /-- ERR_EmptyFrame, code 4 (R140, R99). -/
  | errEmptyFrame
  /-- TAG_Unknown, code 0 on `ev_tag` (R111). -/
  | tagUnknown
  /-- TAG_Receive, code 1 (R111). -/
  | tagReceive
  /-- TAG_TransmissionStatus, code 2 (R111). -/
  | tagTransmissionStatus
  /-- TAG_ATResponse, code 3 (R111). -/
  | tagAtResponse
  /-- TAG_RemoteATResponse, code 4 (R111). -/
  | tagRemoteAtResponse
deriving DecidableEq, Repr

/-- The column "format" of the opcode table. -/
inductive Format where
  | inputItem | rawByte | rawPair | logicalByte | completion | microOp | function | frame | typeByte | pseudo
  | evErrCode | evTagCode
deriving DecidableEq, Repr

/-- The format the opcode table gives each row. -/
def Instr.format : Instr → Format
  | .reset | .unEos | .noByte => .inputItem
  | .wsStart | .wsSkip _ | .unBypass _ | .unEsc | .unXor _ | .unPass _ => .rawByte
  | .escPair7E | .escPair7D | .escPair11 | .escPair13 | .escPairAny _ => .rawPair
  | .rlhByte _ | .rllAccept _ | .rllTooLarge _ | .rbStore _ | .rbLast _ => .logicalByte
  | .doneOk _ | .doneBadCk _ | .doneEmpty _ => .completion
  | .ckClear | .ckAdd _ | .ckCheck _ _ => .microOp
  | .ckValue _ | .dispatch _ => .function
  | .frame _ _ => .frame
  | .typeReceive _ | .typeTransmissionStatus _ | .typeAtResponse _ | .typeRemoteAtResponse _
  | .typeRemoteAtRequestOutbound _ | .typeUnknown _ _ => .typeByte
  | .stuff _ | .frameEnc _ _ | .frameRawLen _ _ => .pseudo
  | .errChecksumError | .errFrameTooLarge | .errEscapeSequenceError | .errEmptyFrame => .evErrCode
  | .tagUnknown | .tagReceive | .tagTransmissionStatus | .tagAtResponse | .tagRemoteAtResponse => .evTagCode

end Sys2Proof
end

