-- ==== Sys2Proof/WellFormed.lean ====
section
/-! DEFINITION. Which instructions are well formed: the operand conditions the opcode table and the rules put on a
row by itself, whatever the state. A default row does not name a value that a row of its own names, so that every
well-formed instruction is the one reading of its encoding (log 23). -/

namespace Sys2Proof

def Instr.wellFormed : Instr → Bool
  -- "default row after WS_START" (R90)
  | .wsSkip b => b ≠ Config.start
  -- "default row after UN_ESC" (R81, R82)
  | .unXor b => b ≠ Config.escMark
  | .unPass b => b ≠ Config.escMark
  -- the second byte is no escape marker, and no pair that R54 lists by name
  | .escPairAny b => b ≠ Config.escMark ∧ b ≠ 0x5E ∧ b ≠ 0x5D ∧ b ≠ 0x31 ∧ b ≠ 0x33
  -- after the length field come `L + 1` logical bytes (R51)
  | .frame len span => span.length = len.toNat + 1
  -- "any value other than 0x90, 0x8B, 0x88, 0x97"; 0x17 has its own row (R57)
  | .typeUnknown t _ =>
    t ≠ Config.tReceive ∧ t ≠ Config.tTxStatus ∧ t ≠ Config.tAtResp ∧ t ≠ Config.tRAtResp ∧ t ≠ Config.tRAtReq
  -- "a body `B` with `1 + |B| <= 65535`" (R131)
  | .frameEnc _ body => 1 + body.length ≤ 65535
  | .frameRawLen _ body => 1 + body.length ≤ 65535
  | .reset | .unEos | .noByte | .wsStart | .unBypass _ | .unEsc
  | .escPair7E | .escPair7D | .escPair11 | .escPair13
  | .rlhByte _ | .rllAccept _ | .rllTooLarge _ | .rbStore _ | .rbLast _
  | .doneOk _ | .doneBadCk _ | .doneEmpty _ | .ckClear | .ckAdd _ | .ckValue _ | .ckCheck _ _
  | .typeReceive _ | .typeTransmissionStatus _ | .typeAtResponse _ | .typeRemoteAtResponse _
  | .typeRemoteAtRequestOutbound _ | .dispatch _ | .stuff _
  | .errChecksumError | .errFrameTooLarge | .errEscapeSequenceError | .errEmptyFrame
  | .tagUnknown | .tagReceive | .tagTransmissionStatus | .tagAtResponse | .tagRemoteAtResponse => true

end Sys2Proof
end

