-- ==== Sys2Proof/Decode.lean ====
section
/-! DEFINITION. The decoder of each layer and, after it, the encoder. The block classifies a raw byte by its state,
"not on the byte alone" (30_encoding R56), so a decoder takes the part of the state it looks at. -/

namespace Sys2Proof

/-- What the decoders and the rules' conditions look at: the registers but the buffer, and `MAX_LEN`. -/
structure Ctx where
  st : Ctrl
  esc : Bool
  len : Half
  rem : Half
  sum : Byte
  maxLen : MaxLen
deriving DecidableEq, Repr

/-- "In-frame: any state with `st != WaitStart`" (00_scope section 6). -/
def Ctx.inFrame (c : Ctx) : Bool := c.st ≠ .waitStart

/-! ### Assembled values (30_encoding R53) -/

/-- `zext_16(v) << 8` (42_reassembler R92). -/
def highLength (v : Byte) : Half := v.setWidth 16 <<< 8

/-- `len | zext_16(v)` (R93). -/
def withLowLength (len : Half) (v : Byte) : Half := len ||| v.setWidth 16

/-- `L = (LEN_HI << 8) | LEN_LO` (R53). -/
def assembleLength (hi lo : Byte) : Half := withLowLength (highLength hi) lo

/-- `L[15:8]`. -/
def lengthHi (len : Half) : Byte := (len >>> 8).setWidth 8

/-- `L[7:0]`. -/
def lengthLo (len : Half) : Byte := len.setWidth 8

/-- The logical byte of the raw pair `0x7D, b` (R53), and back (R54). -/
def xorMask (b : Byte) : Byte := b ^^^ Config.xmask

/-! ### The conditions under which each row's rule applies (the table's column "condition") -/

/-- The length bound of RLL_ACCEPT and RLL_TOOLARGE: `L <= MAX_LEN` for `L = len | zext_16(v)` (R93, R94). -/
def Ctx.lengthFits (c : Ctx) (v : Byte) : Bool := (withLowLength c.len v).toNat ≤ c.maxLen.value

/-- More of the counted span is to come after this byte: `rem > 1` (R95). DEDUCED (log 8): everything else is the
last byte, as the step listing of 42_reassembler section 5 has it. -/
def Ctx.moreToCome (c : Ctx) : Bool := 1 < c.rem.toNat

/-- CK_CHECK on the register: `c == 0xFF - sum` (40_checksum R73). -/
def Ctx.sumMatches (c : Ctx) (v : Byte) : Bool := v = Config.ckBase - c.sum

/-- The step consumes the last byte of the counted span (R96). -/
def Ctx.atLast (c : Ctx) : Bool := c.st = .readBody && !c.moreToCome

/-- "Applies when …" of the instruction's rule, with the operand conditions of its "Operands" line. -/
def Instr.applies (c : Ctx) : Instr → Bool
  | .reset | .unEos | .noByte => true
  | .wsStart => c.st = .waitStart
  | .wsSkip b => c.st = .waitStart && b ≠ Config.start
  | .unBypass _ => c.st = .waitStart
  | .unEsc => c.inFrame
  | .unXor b => c.inFrame && c.esc && b ≠ Config.escMark
  | .unPass b => c.inFrame && !c.esc && b ≠ Config.escMark
  | .escPair7E => c.inFrame
  | .escPair7D => c.inFrame
  | .escPair11 => c.inFrame
  | .escPair13 => c.inFrame
  | .escPairAny b => c.inFrame && b ≠ Config.escMark
  | .rlhByte _ => c.st = .readLengthHigh
  | .rllAccept v => c.st = .readLengthLow && c.lengthFits v
  | .rllTooLarge v => c.st = .readLengthLow && !c.lengthFits v
  | .rbStore _ => c.st = .readBody && c.moreToCome
  | .rbLast _ => c.atLast
  | .doneOk v => c.atLast && c.sumMatches v && c.len ≠ 0
  | .doneBadCk v => c.atLast && !c.sumMatches v
  | .doneEmpty v => c.atLast && c.sumMatches v && c.len = 0
  | .ckClear | .ckAdd _ | .ckValue _ | .ckCheck _ _ => true
  | .frame len span => c.st = .waitStart && span.length = len.toNat + 1
  | .typeReceive _ | .typeTransmissionStatus _ | .typeAtResponse _ | .typeRemoteAtResponse _
  | .typeRemoteAtRequestOutbound _ => true
  | .typeUnknown t _ =>
    t ≠ Config.tReceive && t ≠ Config.tTxStatus && t ≠ Config.tAtResp && t ≠ Config.tRAtResp
  | .dispatch _ | .stuff _ => true
  | .frameEnc _ body => 1 + body.length ≤ 65535
  | .frameRawLen _ body => 1 + body.length ≤ 65535
  | .errChecksumError | .errFrameTooLarge | .errEscapeSequenceError | .errEmptyFrame => true
  | .tagUnknown | .tagReceive | .tagTransmissionStatus | .tagAtResponse | .tagRemoteAtResponse => true

/-! ### The decoders -/

/-- The class of a raw byte (30_encoding R56: START, SKIP, ESC, XLIT, LIT). -/
def decodeRaw (c : Ctx) (b : Byte) : Instr :=
  if c.inFrame then
    if b = Config.escMark then .unEsc
    else if c.esc then .unXor b
    else .unPass b
  else if b = Config.start then .wsStart
  else .wsSkip b

/-- What an input item is decoded to (00_scope R7). Total: every item in every state is an instruction. -/
def decodeItem (c : Ctx) : Item → Instr
  | .byte b => decodeRaw c b
  | .eos => .unEos
  | .reset => .reset
  | .none => .noByte

/-- How the completing step ends: the checksum is tested first (42_reassembler R96, 60_exceptions R143). -/
def decodeCompletion (c : Ctx) (v : Byte) : Instr :=
  if c.sumMatches v then (if c.len = 0 then .doneEmpty v else .doneOk v) else .doneBadCk v

/-- The row of a type byte and the body after it (30_encoding R57). -/
def decodeType (t : Byte) (body : List Byte) : Instr :=
  if t = Config.tReceive then .typeReceive body
  else if t = Config.tTxStatus then .typeTransmissionStatus body
  else if t = Config.tAtResp then .typeAtResponse body
  else if t = Config.tRAtResp then .typeRemoteAtResponse body
  else if t = Config.tRAtReq then .typeRemoteAtRequestOutbound body
  else .typeUnknown t body

/-- The encodings of the table's rows, one alternative for each place an encoding stands at. -/
inductive Code where
  /-- An input item at the ports; a byte is classified by R56. -/
  | item (it : Item)
  /-- A raw byte as it passes the inactive unstuffer (R83). -/
  | bypassed (b : Byte)
  /-- Two raw bytes, the first on the left (R54). -/
  | pair (x y : Byte)
  /-- A logical byte the unstuffer delivers (R81, R82). -/
  | logical (v : Byte)
  /-- The logical bytes of a frame from its start marker to its checksum (R50). -/
  | frame (bytes : List Byte)
  /-- Type and body of a validated frame (R57). -/
  | typed (bytes : List Byte)
  /-- The port `ev_err` of an error event (R140). -/
  | evErr (code : Code3)
  /-- The port `ev_tag` of a packet event (R111). -/
  | evTag (code : Code3)
deriving DecidableEq, Repr

/-- Why a code is no instruction, by name. -/
inductive DecodeError where
  /-- Only in `WaitStart` does a byte pass the unstuffer unseen (R83). -/
  | unstufferActive
  /-- The first byte of a pair is 0x7D (R54). -/
  | notAnEscapePair
  /-- `7D 7D` produces no logical byte (R80, R58 (d)). -/
  | secondMarker
  /-- In `WaitStart` raw bytes are not unstuffed (R55), so there is no pair and no logical byte. -/
  | outsideFrame
  /-- Frames do not nest (R103). -/
  | insideFrame
  /-- A frame begins with 0x7E (R50). -/
  | noStartMarker
  /-- A frame has a start marker and two length bytes (R50). -/
  | truncatedFrame
  /-- After the length field come `L + 1` logical bytes (R51). -/
  | wrongSpan
  /-- There is no type byte to dispatch on (R99). -/
  | noTypeByte
  /-- Codes 0 and 5 to 7 are never on `ev_err` (R140). -/
  | errCodeNeverProduced
  /-- Codes 5 to 7 are never on `ev_tag` (R111). -/
  | tagCodeNeverProduced
deriving DecidableEq, Repr

/-- The reassembler's transition for a logical byte (R92 to R96). -/
def decodeLogical (c : Ctx) (v : Byte) : Except DecodeError Instr :=
  match c.st with
  | .waitStart => .error .outsideFrame
  | .readLengthHigh => .ok (.rlhByte v)
  | .readLengthLow => .ok (if c.lengthFits v then .rllAccept v else .rllTooLarge v)
  | .readBody => .ok (if c.moreToCome then .rbStore v else .rbLast v)

/-- A raw pair in a frame (R54, R81). -/
def decodePair (c : Ctx) (x y : Byte) : Except DecodeError Instr :=
  if x ≠ Config.escMark then .error .notAnEscapePair
  else if !c.inFrame then .error .outsideFrame
  else if y = Config.escMark then .error .secondMarker
  else if y = 0x5E then .ok .escPair7E
  else if y = 0x5D then .ok .escPair7D
  else if y = 0x31 then .ok .escPair11
  else if y = 0x33 then .ok .escPair13
  else .ok (.escPairAny y)

/-- A whole logical frame (R50, R51). -/
def decodeFrame (c : Ctx) : List Byte → Except DecodeError Instr
  | m :: hi :: lo :: span =>
    if c.inFrame then .error .insideFrame
    else if m ≠ Config.start then .error .noStartMarker
    else if span.length ≠ (assembleLength hi lo).toNat + 1 then .error .wrongSpan
    else .ok (.frame (assembleLength hi lo) span)
  | _ => .error .truncatedFrame

/-- The `ev_err` code (R140). -/
def decodeErr (code : Code3) : Except DecodeError Instr :=
  if code = 1 then .ok .errChecksumError
  else if code = 2 then .ok .errFrameTooLarge
  else if code = 3 then .ok .errEscapeSequenceError
  else if code = 4 then .ok .errEmptyFrame
  else .error .errCodeNeverProduced

/-- The `ev_tag` code (R111). -/
def decodeTag (code : Code3) : Except DecodeError Instr :=
  if code = 0 then .ok .tagUnknown
  else if code = 1 then .ok .tagReceive
  else if code = 2 then .ok .tagTransmissionStatus
  else if code = 3 then .ok .tagAtResponse
  else if code = 4 then .ok .tagRemoteAtResponse
  else .error .tagCodeNeverProduced

/-- The decoder of every encoding, total, rejecting by name. -/
def decode (c : Ctx) : Code → Except DecodeError Instr
  | .item it => .ok (decodeItem c it)
  | .bypassed b => if c.inFrame then .error .unstufferActive else .ok (.unBypass b)
  | .pair x y => decodePair c x y
  | .logical v => decodeLogical c v
  | .frame bytes => decodeFrame c bytes
  | .typed (t :: body) => .ok (decodeType t body)
  | .typed [] => .error .noTypeByte
  | .evErr code => decodeErr code
  | .evTag code => decodeTag code

/-! ### The encoder -/

/-- The code of an error on `ev_err` (R140). -/
def errCode : ErrCode → Code3
  | .checksumError => 1
  | .frameTooLarge => 2
  | .escapeSequenceError => 3
  | .emptyFrame => 4

/-- The code of a tag on `ev_tag` (R111). -/
def tagCode : Tag → Code3
  | .unknown => 0
  | .receive => 1
  | .transmissionStatus => 2
  | .atResponse => 3
  | .remoteAtResponse => 4

/-- The encoding of an instruction. The completions, micro-operations, functions and shorthands have none
(the table's "internal:" and "shorthand:" rows). -/
def encode : Instr → Option Code
  | .reset => some (.item .reset)
  | .unEos => some (.item .eos)
  | .noByte => some (.item .none)
  | .wsStart => some (.item (.byte Config.start))
  | .wsSkip b => some (.item (.byte b))
  | .unBypass b => some (.bypassed b)
  | .unEsc => some (.item (.byte Config.escMark))
  | .unXor b => some (.item (.byte b))
  | .unPass b => some (.item (.byte b))
  | .escPair7E => some (.pair Config.escMark (xorMask 0x7E))
  | .escPair7D => some (.pair Config.escMark (xorMask 0x7D))
  | .escPair11 => some (.pair Config.escMark (xorMask 0x11))
  | .escPair13 => some (.pair Config.escMark (xorMask 0x13))
  | .escPairAny b => some (.pair Config.escMark b)
  | .rlhByte v => some (.logical v)
  | .rllAccept v => some (.logical v)
  | .rllTooLarge v => some (.logical v)
  | .rbStore v => some (.logical v)
  | .rbLast v => some (.logical v)
  | .doneOk _ | .doneBadCk _ | .doneEmpty _ => none
  | .ckClear | .ckAdd _ | .ckValue _ | .ckCheck _ _ => none
  | .frame len span => some (.frame (Config.start :: lengthHi len :: lengthLo len :: span))
  | .typeReceive body => some (.typed (Config.tReceive :: body))
  | .typeTransmissionStatus body => some (.typed (Config.tTxStatus :: body))
  | .typeAtResponse body => some (.typed (Config.tAtResp :: body))
  | .typeRemoteAtResponse body => some (.typed (Config.tRAtResp :: body))
  | .typeRemoteAtRequestOutbound body => some (.typed (Config.tRAtReq :: body))
  | .typeUnknown t body => some (.typed (t :: body))
  | .dispatch _ | .stuff _ | .frameEnc _ _ | .frameRawLen _ _ => none
  | .errChecksumError => some (.evErr (errCode .checksumError))
  | .errFrameTooLarge => some (.evErr (errCode .frameTooLarge))
  | .errEscapeSequenceError => some (.evErr (errCode .escapeSequenceError))
  | .errEmptyFrame => some (.evErr (errCode .emptyFrame))
  | .tagUnknown => some (.evTag (tagCode .unknown))
  | .tagReceive => some (.evTag (tagCode .receive))
  | .tagTransmissionStatus => some (.evTag (tagCode .transmissionStatus))
  | .tagAtResponse => some (.evTag (tagCode .atResponse))
  | .tagRemoteAtResponse => some (.evTag (tagCode .remoteAtResponse))

/-! ### The words of the opcode table (log 12) -/

/-- The decoding context of a word of the table that stands alone: 0x7D is the one 8-bit row of a frame with all
its bits fixed, every other byte is read where the block stands after reset. -/
def tableCtx (b : Byte) : Ctx :=
  { st := if b = Config.escMark then .readLengthHigh else .waitStart
    esc := false, len := 0, rem := 0, sum := 0, maxLen := Config.resetMaxLen }

/-- The raw pair of a 16-bit word, the first byte in bits 15:8 as the table's rows say. -/
def pairOfWord (w : Nat) : Byte × Byte := (BitVec.ofNat 8 (w / 256), BitVec.ofNat 8 w)

/-- The instruction of a word of the opcode table: a raw byte (8 bits) or a raw pair (16 bits). -/
def decodeTableWord (nbits w : Nat) : Option Instr :=
  if nbits = 8 then some (decodeRaw (tableCtx (BitVec.ofNat 8 w)) (BitVec.ofNat 8 w))
  else if nbits = 16 then
    (decode (tableCtx Config.escMark) (.pair (pairOfWord w).1 (pairOfWord w).2)).toOption
  else none

end Sys2Proof
end

