-- ==== Sys2Proof/Machine/State.lean ====
section
/-! DEFINITION. The state of the block, its events, the reasons it can stop, and its reset. -/

namespace Sys2Proof.Machine

/-- The frame buffer (10_state R16, 20_memory R30): the cells the current frame has written, addresses strictly
rising. An unlisted cell has no value: it is never read (R41), and reading it faults (log 9). -/
abbrev Memory := List Host.Cell

/-- Names of the fields of the packet variants (43_dispatcher R114). -/
inductive FieldName where
  | sourceLongAddr | sourceShortAddr | payload | linkQuality | frameId | destinationShortAddr | statusCode | command
deriving DecidableEq, Repr

/-- The fields of a packet in the order of R114's table, each a copy of body bytes in wire order (R121). -/
abbrev FieldView := List (FieldName × List Byte)

/-- A packet event (10_state R24). -/
structure Packet where
  tag : Tag
  frameType : Byte
  body : List Byte
  cksum : Byte
  fields : Option FieldView
deriving DecidableEq, Repr

/-- What one step may output (R24). -/
inductive Event where
  | packet (p : Packet)
  | error (code : ErrCode)
deriving DecidableEq, Repr

/-- What the environment presents at the input pins (R10). -/
structure Pins where
  rst : Bool
  eos : Bool
  inValid : Bool
  inData : Byte
deriving DecidableEq, Repr

/-- The output wires of the unit operation executed last. MODEL's own (log 6): the spec stores such a result
nowhere (R73), and no step of the machine writes it but to clear it at `Reset` (log 20). -/
inductive Result where
  | none
  | byte (v : Byte)
  | truth (b : Bool)
  | bytes (s : List Byte)
  | tag (t : Tag)
  | variant (t : Tag) (fields : Option FieldView)
  | tagPort (t : Tag) (code : Code3)
deriving DecidableEq, Repr

/-- The whole state (10_state section 2; INVENTORY.md "State"). -/
structure State where
  /-- Control state (R11). -/
  st : Ctrl
  /-- An escape marker is pending (R12). -/
  esc : Bool
  /-- Length field (R13). -/
  len : Half
  /-- Logical bytes of the counted span still to come (R14). -/
  rem : Half
  /-- Checksum accumulator (R15). -/
  sum : Byte
  /-- Frame buffer (R16). -/
  buf : Memory
  /-- `MAX_LEN`, fixed at elaboration (R5, R162); no step writes it. -/
  maxLen : MaxLen
  /-- The event at the port `ev_*`, waiting for the consumer (R10, R40). -/
  event : Option Event
  /-- The events the consumer has taken, oldest first (R38; MODEL's own, log 3). -/
  delivered : List Event
  /-- What the environment presents at the input pins, oldest first; past its end nothing is presented (log 1). -/
  input : List Pins
  /-- The level of `ev_ready` in each coming step; past its end it is high (log 3). -/
  evReady : List Bool
  /-- Output wires of the last unit operation (MODEL's own, log 6). -/
  result : Result
deriving DecidableEq, Repr

/-- Why the machine stops with a fault. Both arise only in states that 10_state R19 rules out. -/
inductive Fault where
  /-- An access to an index above `MAX_LEN`, outside the buffer (20_memory R30). Raised by a buffer write or read.
  Safe (log 10). -/
  | outsideBuffer
  /-- A read of a cell the current frame has not written (20_memory R41). Raised by the read at completion.
  Safe (log 9). -/
  | unwrittenCell
deriving DecidableEq, Repr

/-- Why an instruction has no meaning. -/
inductive Refusal where
  /-- Raised by an arm of `exec` that has no meaning yet; no arm does. Safe. -/
  | notModelled (mnemonic : String)
  /-- Raised by a meaning executed outside its rule's "Applies when" or "Operands" line; the decoder never selects
  it there. Safe (log 7). -/
  | ruleDoesNotApply
deriving DecidableEq, Repr

/-- What the decoders see of a state. -/
def State.ctx (s : State) : Ctx :=
  { st := s.st, esc := s.esc, len := s.len, rem := s.rem, sum := s.sum, maxLen := s.maxLen }

/-- The state right after `Reset` (10_state R20) of a block built with `MAX_LEN = m`, with nothing presented at its
pins and no event out yet. -/
def State.resetWith (m : MaxLen) : State :=
  { st := .waitStart, esc := false, len := 0, rem := 0, sum := 0, buf := []
    maxLen := m
    event := none, delivered := [], input := [], evReady := [], result := .none }

/-- The machine right after reset. Its `MAX_LEN` is a DESIGN CHOICE (log 5, unsafe). -/
def State.reset : State := State.resetWith Config.resetMaxLen

end Sys2Proof.Machine
end

