-- ==== Sys2Proof/Machine/Ops.lean ====
section
/-! DEFINITION. The named operations over the buffer, the registers and the ports; taking an error event; fetching. -/

namespace Sys2Proof.Machine

/-- The outcome of a meaning. -/
abbrev Res := Host.Outcome State Fault Refusal

/-- Go on from a next state; a fault or a refusal stands. -/
def andThen (r : Res) (k : State → Res) : Res :=
  match r with
  | .next s => k s
  | .fault f => .fault f
  | .refused q => .refused q

/-- Run `k` if the instruction's rule applies in the state (`Instr.applies`, log 7). -/
def whenApplies (i : Instr) (s : State) (k : Res) : Res :=
  if i.applies s.ctx then k else .refused .ruleDoesNotApply

/-! ### The frame buffer (20_memory R30 to R33) -/

/-- The value of one cell; none where the current frame has not written it. -/
def Memory.read : Memory → Nat → Option Byte
  | [], _ => none
  | (b, v) :: m, a => if a = b then some v else Memory.read m a

/-- Write one cell, keeping the addresses strictly rising. -/
def Memory.write : Memory → Nat → Byte → Memory
  | [], a, v => [(a, v)]
  | (b, w) :: m, a, v =>
    if a < b then (a, v) :: (b, w) :: m
    else if a = b then (a, v) :: m
    else (b, w) :: Memory.write m a v

/-- The canonical form: addresses strictly rising. An unlisted cell reads as no value, so no listed cell equals it. -/
def Memory.wf : Memory → Bool
  | [] => true
  | [_] => true
  | (a, _) :: (b, w) :: m => a < b && Memory.wf ((b, w) :: m)

/-- The buffer as the byte sequence the spec writes (10_state R16). -/
def Memory.bytes (m : Memory) : List Byte := m.map Prod.snd

/-- `MemWrite(addr, 1, v)` (20_memory R31), within the cells 0..`MAX_LEN` (R30). -/
def memWrite (a : Nat) (v : Byte) (s : State) : Res :=
  if a ≤ s.maxLen.value then .next { s with buf := s.buf.write a v } else .fault .outsideBuffer

/-- `MemRead(addr, n)` (R32): the `n` bytes from `addr` on. -/
def memRead (s : State) : Nat → Nat → Except Fault (List Byte)
  | _, 0 => .ok []
  | a, n + 1 =>
    if a ≤ s.maxLen.value then
      match s.buf.read a with
      | some v =>
        match memRead s (a + 1) n with
        | .ok rest => .ok (v :: rest)
        | .error f => .error f
      | none => .error .unwrittenCell
    else .error .outsideBuffer

/-- `append(buf, v)`: `MemWrite(|buf|, 1, v)` (00_scope section 5). -/
def appendByte (v : Byte) (s : State) : Res := memWrite s.buf.length v s

/-! ### Registers and events -/

/-- `idle_state()`: every register to its reset value (42_reassembler R102). -/
def State.idleState (s : State) : State :=
  { s with st := .waitStart, esc := false, len := 0, rem := 0, sum := 0, buf := [] }

/-- `emit`: produce the step's event. -/
def State.emit (e : Event) (s : State) : State := { s with event := some e }

/-- Drive the output wires of a unit operation (log 6). -/
def State.withResult (r : Result) (s : State) : State := { s with result := r }

/-- What an error changes in the registers (60_exceptions R144). -/
def State.errorEntry (s : State) : ErrCode → State
  | .checksumError => s.idleState
  | .frameTooLarge => s.idleState
  | .emptyFrame => s.idleState
  | .escapeSequenceError => { s with esc := false }

/-- `raise E`: TAKING AN ERROR, the block's exception entry (R144): the event `Error(E)` and the recovery, in one
step. Nothing is saved, there is no handler, and "there is no return operation" (R145): the block is already back in
normal operation. -/
def State.raise (s : State) (e : ErrCode) : State := (s.errorEntry e).emit (.error e)

/-- `Reset` (70_reset R160): the idle state and no event; the output wires of the units rest (log 20). -/
def State.applyReset (s : State) : State := { s.idleState with event := none, result := .none }

/-! ### The ports (10_state R10) -/

/-- The output `idle` (R18). -/
def State.idle (s : State) : Bool := s.st = .waitStart

/-- `ev_ready` in the coming step. -/
def State.readyNow (s : State) : Bool := s.evReady.headD true

/-- `in_ready`: low only while an event waits for the consumer (R10, R40). -/
def State.inReady (s : State) : Bool := s.event.isNone || s.readyNow

/-- `ev_valid`. -/
def State.evValid (s : State) : Bool := s.event.isSome

/-- `ev_kind`: 0 a packet, 1 an error; without meaning where `ev_valid` is low (93 U7). -/
def State.evKind (s : State) : Option (BitVec 1) :=
  match s.event with
  | some (.packet _) => some 0
  | some (.error _) => some 1
  | none => none

/-- `ev_err` (60_exceptions R140). -/
def State.evErr (s : State) : Option Code3 :=
  match s.event with
  | some (.error e) => some (errCode e)
  | _ => none

/-- The packet at the port, if it is one. -/
def State.evPacket (s : State) : Option Packet :=
  match s.event with
  | some (.packet p) => some p
  | _ => none

/-- `ev_tag` (43_dispatcher R111). -/
def State.evTag (s : State) : Option Code3 := s.evPacket.map fun p => tagCode p.tag

/-- `ev_type`. -/
def State.evType (s : State) : Option Byte := s.evPacket.map fun p => p.frameType

/-- `ev_len`, the frame's length field `L = 1 + |B|` (30_encoding R51). -/
def State.evLen (s : State) : Option Half := s.evPacket.map fun p => BitVec.ofNat 16 (1 + p.body.length)

/-- `ev_body`. -/
def State.evBody (s : State) : Option (List Byte) := s.evPacket.map fun p => p.body

/-- `ev_cksum`. -/
def State.evCksum (s : State) : Option Byte := s.evPacket.map fun p => p.cksum

/-- Everything the block has output so far, in order (20_memory R38). -/
def State.outputs (s : State) : List Event := s.delivered ++ s.event.toList

/-! ### Fetching an input item -/

/-- The item acted on: priority `rst` over `eos` over `in_valid`, and `None` when none is asserted (R10). -/
def Pins.item (p : Pins) : Item :=
  if p.rst then .reset else if p.eos then .eos else if p.inValid then .byte p.inData else .none

/-- What the environment presents again: "the items not taken" (60_exceptions R143, log 2). -/
def Pins.rest (p : Pins) : Option Pins :=
  if p.rst then (if p.eos || p.inValid then some { p with rst := false } else none)
  else if p.eos then (if p.inValid then some { p with eos := false } else none)
  else none

/-- The pins that present one item. -/
def Pins.ofItem : Item → Pins
  | .byte b => { rst := false, eos := false, inValid := true, inData := b }
  | .eos => { rst := false, eos := true, inValid := false, inData := 0 }
  | .reset => { rst := true, eos := false, inValid := false, inData := 0 }
  | .none => { rst := false, eos := false, inValid := false, inData := 0 }

/-- Present a stream of items after what is already presented. -/
def State.presenting (s : State) (items : List Item) : State :=
  { s with input := s.input ++ items.map Pins.ofItem }

/-- The step passes at the port `ev_ready`. -/
def State.tick (s : State) : State := { s with evReady := s.evReady.tail }

/-- The event at the port goes to the consumer before the next item is taken (60_exceptions R142). -/
def State.handOver (s : State) : State :=
  { s with delivered := s.delivered ++ s.event.toList, event := none }

/-- The next input item, and the state in which it is taken. -/
def State.takeItem (s : State) : Item × State :=
  match s.input with
  | [] => (.none, s)
  | p :: ps => (p.item, { s with input := p.rest.toList ++ ps })

/-- Fetch and decode the next item. None while `in_ready` is low: the block takes no item, `Reset` included
(20_memory R40, log 4). -/
def fetch (s : State) : Option (Instr × State) :=
  if s.inReady then
    let t := s.handOver.tick.takeItem
    some (decodeItem t.2.ctx t.1, t.2)
  else none

end Sys2Proof.Machine
end

