-- ==== Sys2Proof/Machine/Flags.lean ====
section
/-! DEFINITION. The block's only flag, `esc` (10_state R12, R22). No operation writes a condition code; the length,
checksum and count comparisons are made and used within one step (`Ctx.lengthFits`, `Ctx.sumMatches`,
`Ctx.moreToCome`). -/

namespace Sys2Proof.Machine

/-- `esc <- 1` (41_unstuffer R80). -/
def State.setEsc (s : State) : State := { s with esc := true }

/-- `esc <- 0` (R81, R84). -/
def State.clearEsc (s : State) : State := { s with esc := false }

end Sys2Proof.Machine
end

