-- ==== Sys2Proof/Machine/Operands.lean ====
section
/-! DEFINITION. Operand forms: byte sequences and their sums, checksum sources, the slices of a body. -/

namespace Sys2Proof.Machine

/-! ### Sums (00_scope section 5, 40_checksum R72) -/

/-- `sum(s)`: the exact sum of the elements, 0 for the empty sequence. -/
def sumBytes : List Byte → Nat
  | [] => 0
  | v :: s => v.toNat + sumBytes s

/-- `sum(s) mod 256`. -/
def sumMod (s : List Byte) : Byte := BitVec.ofNat 8 (sumBytes s)

/-- `ck(s) = 0xFF - (sum(s) mod 256)` (R72). -/
def ck (s : List Byte) : Byte := Config.ckBase - sumMod s

/-- What a checksum operand sums to: a sequence, or the accumulator (R72, R73). -/
def ckSum (s : State) : CkSource → Byte
  | .seq bs => sumMod bs
  | .register => s.sum

/-! ### The field view (43_dispatcher R114) -/

/-- Where a field lies in a body of `n` bytes. -/
inductive Place where
  /-- `width` bytes from `offset` on. -/
  | bytes (offset width : Nat)
  /-- From `offset` to the byte before the last. -/
  | upToLast (offset : Nat)
  /-- The last byte. -/
  | last
deriving DecidableEq, Repr

/-- The bytes of a place. -/
def placeBytes (body : List Byte) : Place → List Byte
  | .bytes off w => (body.drop off).take w
  | .upToLast off => (body.drop off).take (body.length - 1 - off)
  | .last => body.drop (body.length - 1)

/-- R114's table, kept as a value that a claim can name: the fields of each variant. The offsets are the spec's
decision D12. -/
def viewTable : Tag → List (FieldName × Place)
  | .receive =>
    [(.sourceLongAddr, .bytes 0 8), (.sourceShortAddr, .bytes 8 2), (.payload, .upToLast 10), (.linkQuality, .last)]
  | .transmissionStatus =>
    [(.frameId, .bytes 0 1), (.destinationShortAddr, .bytes 1 2), (.statusCode, .bytes 3 1), (.linkQuality, .last)]
  | .atResponse =>
    [(.frameId, .bytes 0 1), (.command, .bytes 1 2), (.payload, .upToLast 3), (.linkQuality, .last)]
  | .remoteAtResponse =>
    [(.frameId, .bytes 0 1), (.sourceLongAddr, .bytes 1 8), (.sourceShortAddr, .bytes 9 2), (.command, .bytes 11 2),
     (.statusCode, .bytes 13 1), (.payload, .upToLast 14), (.linkQuality, .last)]
  | .unknown => []

/-- R114's column "Minimum n". -/
def minBody : Tag → Nat
  | .receive => 11
  | .transmissionStatus => 5
  | .atResponse => 4
  | .remoteAtResponse => 15
  | .unknown => 0

/-- `view(tag, B)`: none where the body is shorter than the variant's minimum (R114, R120). -/
def view (t : Tag) (body : List Byte) : Option FieldView :=
  if body.length < minBody t then none
  else some ((viewTable t).map fun f => (f.1, placeBytes body f.2))

/-- `dispatch(T)` (R110). -/
def dispatchTag (t : Byte) : Tag :=
  if t = Config.tReceive then .receive
  else if t = Config.tTxStatus then .transmissionStatus
  else if t = Config.tAtResp then .atResponse
  else if t = Config.tRAtResp then .remoteAtResponse
  else .unknown

/-- The packet of a validated frame (42_reassembler R97, 43_dispatcher R113). -/
def packetOf (t : Byte) (body : List Byte) (c : Byte) : Packet :=
  { tag := dispatchTag t, frameType := t, body := body, cksum := c, fields := view (dispatchTag t) body }

/-! ### The wire form (44_reference_encoder) -/

/-- `STUFF(s)` (R130). -/
def stuffBytes : List Byte → List Byte
  | [] => []
  | v :: s => if v ∈ Config.escapable then Config.escMark :: xorMask v :: stuffBytes s else v :: stuffBytes s

/-- `unstuff(r)` from a flag `e`: the logical bytes and the flag at the end (41_unstuffer R86). -/
def unstuffBytes : Bool → List Byte → List Byte × Bool
  | e, [] => ([], e)
  | e, b :: r =>
    if b = Config.escMark then unstuffBytes true r
    else ((if e then xorMask b else b) :: (unstuffBytes false r).1, (unstuffBytes false r).2)

/-- `L = 1 + |B|` (30_encoding R51). -/
def frameLength (body : List Byte) : Half := BitVec.ofNat 16 (1 + body.length)

/-- `FRAME(T, B)` (44_reference_encoder R131). -/
def frameBytes (t : Byte) (body : List Byte) : List Byte :=
  Config.start :: (stuffBytes [lengthHi (frameLength body), lengthLo (frameLength body)]
    ++ stuffBytes (t :: (body ++ [ck (t :: body)])))

/-- `FRAME_RAWLEN(T, B)`: the length bytes unescaped (R133). -/
def frameRawLenBytes (t : Byte) (body : List Byte) : List Byte :=
  Config.start :: lengthHi (frameLength body) :: lengthLo (frameLength body)
    :: stuffBytes (t :: (body ++ [ck (t :: body)]))

end Sys2Proof.Machine
end

