-- ==== Sys2Proof/Machine/Encoder.lean ====
section
/-! DEFINITION. The reference encoder's shorthands (44_reference_encoder): functions of the wire format, not hardware
of the block (00_scope R3 (e)); they change no register. -/

namespace Sys2Proof.Machine

/-- STUFF (R130). -/
def execStuff (bs : List Byte) (s : State) : Res := .next (s.withResult (.bytes (stuffBytes bs)))

/-- FRAME_ENC, `FRAME(T, B)` for `1 + |B| <= 65535` (R131). -/
def execFrameEnc (t : Byte) (body : List Byte) (s : State) : Res :=
  whenApplies (.frameEnc t body) s (.next (s.withResult (.bytes (frameBytes t body))))

/-- FRAME_RAWLEN (R133). -/
def execFrameRawLen (t : Byte) (body : List Byte) (s : State) : Res :=
  whenApplies (.frameRawLen t body) s (.next (s.withResult (.bytes (frameRawLenBytes t body))))

end Sys2Proof.Machine
end

