-- ==== Sys2Proof/Machine/Items.lean ====
section
/-! DEFINITION. The input items that carry no byte (60_exceptions R147): `Reset`, `Eos`, `None`. -/

namespace Sys2Proof.Machine

/-- RESET (70_reset R160). -/
def execReset (s : State) : Res := .next s.applyReset

/-- UN_EOS (41_unstuffer R84): an error only while an escape marker is pending. -/
def execUnEos (s : State) : Res := if s.esc then .next (s.raise .escapeSequenceError) else .next s

/-- NOBYTE (42_reassembler R101). -/
def execNoByte (s : State) : Res := .next s

end Sys2Proof.Machine
end

