-- ==== Sys2Proof/Machine/Checksum.lean ====
section
/-! DEFINITION. Unit CK: the checksum accumulator (40_checksum). -/

namespace Sys2Proof.Machine

/-- CK_CLEAR: `sum <- 0` (R70). -/
def execCkClear (s : State) : Res := .next { s with sum := 0 }

/-- CK_ADD: `sum <- (sum + v) mod 256`; the carry is stored nowhere (R71). -/
def execCkAdd (v : Byte) (s : State) : Res := .next { s with sum := s.sum + v }

/-- CK_VALUE: `ck(s)`, on the register `0xFF - sum` (R72). -/
def execCkValue (src : CkSource) (s : State) : Res :=
  .next (s.withResult (.byte (Config.ckBase - ckSum s src)))

/-- CK_CHECK: `c == ck(s)`, on the register `c == 0xFF - sum` (R73). -/
def execCkCheck (src : CkSource) (c : Byte) (s : State) : Res :=
  .next (s.withResult (.truth (c == Config.ckBase - ckSum s src)))

end Sys2Proof.Machine
end

