-- ==== Sys2Proof/Machine/Dispatcher.lean ====
section
/-! DEFINITION. Unit PD: the packet type dispatcher (43_dispatcher). A pure mapping: no register changes (R122). -/

namespace Sys2Proof.Machine

/-- DISPATCH (R110). -/
def execDispatch (t : Byte) (s : State) : Res := .next (s.withResult (.tag (dispatchTag t)))

/-- TYPE_Receive (R115). -/
def execTypeReceive (body : List Byte) (s : State) : Res :=
  .next (s.withResult (.variant .receive (view .receive body)))

/-- TYPE_TransmissionStatus (R116). -/
def execTypeTransmissionStatus (body : List Byte) (s : State) : Res :=
  .next (s.withResult (.variant .transmissionStatus (view .transmissionStatus body)))

/-- TYPE_ATResponse (R117). -/
def execTypeAtResponse (body : List Byte) (s : State) : Res :=
  .next (s.withResult (.variant .atResponse (view .atResponse body)))

/-- TYPE_RemoteATResponse (R118). -/
def execTypeRemoteAtResponse (body : List Byte) (s : State) : Res :=
  .next (s.withResult (.variant .remoteAtResponse (view .remoteAtResponse body)))

/-- TYPE_RemoteATRequest_outbound: received, it is one of the "any other value" bytes (R112, R119). -/
def execTypeRemoteAtRequestOutbound (body : List Byte) (s : State) : Res :=
  .next (s.withResult (.variant .unknown (view .unknown body)))

/-- TYPE_Unknown (R119). -/
def execTypeUnknown (t : Byte) (body : List Byte) (s : State) : Res :=
  whenApplies (.typeUnknown t body) s (.next (s.withResult (.variant .unknown (view .unknown body))))

end Sys2Proof.Machine
end

