-- ==== Sys2Proof/Machine/Events.lean ====
section
/-! DEFINITION. The rows of the event ports: each error is raised by the one operation `State.raise`
(60_exceptions R140, R144); each tag code is driven on `ev_tag` (43_dispatcher R111; log 16). -/

namespace Sys2Proof.Machine

/-- ERR_ChecksumError. -/
def execErrChecksumError (s : State) : Res := .next (s.raise .checksumError)

/-- ERR_FrameTooLarge. -/
def execErrFrameTooLarge (s : State) : Res := .next (s.raise .frameTooLarge)

/-- ERR_EscapeSequenceError: the one error that keeps the frame in progress. -/
def execErrEscapeSequenceError (s : State) : Res := .next (s.raise .escapeSequenceError)

/-- ERR_EmptyFrame. -/
def execErrEmptyFrame (s : State) : Res := .next (s.raise .emptyFrame)

/-- Drive a tag's code on `ev_tag`. -/
def State.driveTag (s : State) (t : Tag) : State := s.withResult (.tagPort t (tagCode t))

/-- TAG_Unknown. -/
def execTagUnknown (s : State) : Res := .next (s.driveTag .unknown)

/-- TAG_Receive. -/
def execTagReceive (s : State) : Res := .next (s.driveTag .receive)

/-- TAG_TransmissionStatus. -/
def execTagTransmissionStatus (s : State) : Res := .next (s.driveTag .transmissionStatus)

/-- TAG_ATResponse. -/
def execTagAtResponse (s : State) : Res := .next (s.driveTag .atResponse)

/-- TAG_RemoteATResponse. -/
def execTagRemoteAtResponse (s : State) : Res := .next (s.driveTag .remoteAtResponse)

end Sys2Proof.Machine
end

