-- ==== Sys2Proof/Machine/Reassembler.lean ====
section
/-! DEFINITION. Unit RA: the frame reassembler (42_reassembler), one meaning per transition. -/

namespace Sys2Proof.Machine

/-- WS_SKIP: the byte is discarded (R90). -/
def execWsSkip (b : Byte) (s : State) : Res := whenApplies (.wsSkip b) s (.next s)

/-- WS_START (R91). -/
def execWsStart (s : State) : Res := whenApplies .wsStart s (.next { s with st := .readLengthHigh })

/-- RLH_BYTE (R92). -/
def execRlhByte (v : Byte) (s : State) : Res :=
  whenApplies (.rlhByte v) s (.next { s with len := highLength v, st := .readLengthLow })

/-- RLL_ACCEPT (R93): the length is complete; the accumulator is cleared and the buffer emptied. -/
def execRllAccept (v : Byte) (s : State) : Res :=
  whenApplies (.rllAccept v) s
    (.next { s with len := withLowLength s.len v, rem := withLowLength s.len v + 1, sum := 0, buf := [],
                    st := .readBody })

/-- RLL_TOOLARGE (R94). -/
def execRllTooLarge (v : Byte) (s : State) : Res :=
  whenApplies (.rllTooLarge v) s (.next (s.raise .frameTooLarge))

/-- RB_STORE (R95): append, accumulate, count down. -/
def execRbStore (v : Byte) (s : State) : Res :=
  whenApplies (.rbStore v) s
    (andThen (appendByte v s) fun t => .next { t with sum := s.sum + v, rem := s.rem - 1 })

/-- DONE_OK (R97): the frame `TB = MemRead(0, L)` goes to the dispatcher and out as a packet event. -/
def execDoneOk (c : Byte) (s : State) : Res :=
  whenApplies (.doneOk c) s
    (match memRead s 0 s.len.toNat with
      | .ok (t :: body) => .next (s.idleState.emit (.packet (packetOf t body c)))
      | .ok [] => .refused .ruleDoesNotApply
      | .error f => .fault f)

/-- DONE_BADCK (R98). -/
def execDoneBadCk (c : Byte) (s : State) : Res :=
  whenApplies (.doneBadCk c) s (.next (s.raise .checksumError))

/-- DONE_EMPTY (R99). -/
def execDoneEmpty (c : Byte) (s : State) : Res :=
  whenApplies (.doneEmpty c) s (.next (s.raise .emptyFrame))

/-- RB_LAST (R96): the checksum byte; exactly one of R97, R98, R99 completes the step. -/
def execRbLast (v : Byte) (s : State) : Res :=
  whenApplies (.rbLast v) s
    (if !s.ctx.sumMatches v then execDoneBadCk v s
      else if s.len = 0 then execDoneEmpty v s
      else execDoneOk v s)

/-- The reassembler takes the logical byte `v` of this step (42_reassembler section 5). -/
def deliver (v : Byte) (s : State) : Res :=
  match s.st with
  | .waitStart => .refused .ruleDoesNotApply
  | .readLengthHigh => execRlhByte v s
  | .readLengthLow => if s.ctx.lengthFits v then execRllAccept v s else execRllTooLarge v s
  | .readBody => if s.ctx.moreToCome then execRbStore v s else execRbLast v s

/-- Logical bytes one after the other. -/
def deliverAll : List Byte → State → Res
  | [], s => .next s
  | v :: vs, s => andThen (deliver v s) (deliverAll vs)

/-- FRAME (30_encoding R50): a start marker, two length bytes and the counted span, as logical bytes. A length field
that is rejected ends the frame there (42_reassembler R94, log 11). -/
def execFrame (len : Half) (span : List Byte) (s : State) : Res :=
  whenApplies (.frame len span) s
    (andThen (execWsStart s) fun s₁ =>
      andThen (deliverAll [lengthHi len, lengthLo len] s₁) fun s₂ =>
        if s₂.st = .readBody then deliverAll span s₂ else .next s₂)

end Sys2Proof.Machine
end

