-- ==== Sys2Proof/Machine/Unstuffer.lean ====
section
/-! DEFINITION. Unit UN: the byte unstuffer (41_unstuffer), and the raw pairs of 30_encoding R54. -/

namespace Sys2Proof.Machine

/-- UN_ESC (R80): remember the marker, whatever `esc` is; no logical byte. -/
def execUnEsc (s : State) : Res := whenApplies .unEsc s (.next s.setEsc)

/-- UN_XOR (R81): `v <- b XOR 0x20`, `esc <- 0`, deliver `v` in this same step. -/
def execUnXor (b : Byte) (s : State) : Res :=
  whenApplies (.unXor b) s (deliver (xorMask b) s.clearEsc)

/-- UN_PASS (R82): deliver `b` in this same step. -/
def execUnPass (b : Byte) (s : State) : Res :=
  whenApplies (.unPass b) s (deliver b s)

/-- UN_BYPASS (R83): hand the raw byte to R90 or R91. -/
def execUnBypass (b : Byte) (s : State) : Res :=
  whenApplies (.unBypass b) s (if b = Config.start then execWsStart s else execWsSkip b s)

/-- The raw pair `0x7D, b` in a frame: the marker, then the byte after it. -/
def escapedPair (b : Byte) (s : State) : Res := andThen (execUnEsc s) (execUnXor b)

/-- ESCPAIR_7E (R54). -/
def execEscPair7E (s : State) : Res := whenApplies .escPair7E s (escapedPair 0x5E s)

/-- ESCPAIR_7D (R54). -/
def execEscPair7D (s : State) : Res := whenApplies .escPair7D s (escapedPair 0x5D s)

/-- ESCPAIR_11 (R54). -/
def execEscPair11 (s : State) : Res := whenApplies .escPair11 s (escapedPair 0x31 s)

/-- ESCPAIR_13 (R54). -/
def execEscPair13 (s : State) : Res := whenApplies .escPair13 s (escapedPair 0x33 s)

/-- ESCPAIR_ANY (R81): the result is not checked against the escapable set (R85). -/
def execEscPairAny (b : Byte) (s : State) : Res := whenApplies (.escPairAny b) s (escapedPair b s)

end Sys2Proof.Machine
end

