-- ==== Sys2Proof/Machine/Dispatch.lean ====
section
/-! DEFINITION. One arm per constructor of Instr, in the order of spec/opcode_table.json. -/

namespace Sys2Proof.Machine

def exec (i : Instr) (s : State) : Host.Outcome State Fault Refusal :=
  match i with
  | .reset => Sys2Proof.Machine.execReset s
  | .unEos => Sys2Proof.Machine.execUnEos s
  | .noByte => Sys2Proof.Machine.execNoByte s
  | .wsStart => Sys2Proof.Machine.execWsStart s
  | .wsSkip b => Sys2Proof.Machine.execWsSkip b s
  | .unBypass b => Sys2Proof.Machine.execUnBypass b s
  | .unEsc => Sys2Proof.Machine.execUnEsc s
  | .unXor b => Sys2Proof.Machine.execUnXor b s
  | .unPass b => Sys2Proof.Machine.execUnPass b s
  | .escPair7E => Sys2Proof.Machine.execEscPair7E s
  | .escPair7D => Sys2Proof.Machine.execEscPair7D s
  | .escPair11 => Sys2Proof.Machine.execEscPair11 s
  | .escPair13 => Sys2Proof.Machine.execEscPair13 s
  | .escPairAny b => Sys2Proof.Machine.execEscPairAny b s
  | .rlhByte v => Sys2Proof.Machine.execRlhByte v s
  | .rllAccept v => Sys2Proof.Machine.execRllAccept v s
  | .rllTooLarge v => Sys2Proof.Machine.execRllTooLarge v s
  | .rbStore v => Sys2Proof.Machine.execRbStore v s
  | .rbLast v => Sys2Proof.Machine.execRbLast v s
  | .doneOk c => Sys2Proof.Machine.execDoneOk c s
  | .doneBadCk c => Sys2Proof.Machine.execDoneBadCk c s
  | .doneEmpty c => Sys2Proof.Machine.execDoneEmpty c s
  | .ckClear => Sys2Proof.Machine.execCkClear s
  | .ckAdd v => Sys2Proof.Machine.execCkAdd v s
  | .ckValue src => Sys2Proof.Machine.execCkValue src s
  | .ckCheck src c => Sys2Proof.Machine.execCkCheck src c s
  | .frame len span => Sys2Proof.Machine.execFrame len span s
  | .typeReceive body => Sys2Proof.Machine.execTypeReceive body s
  | .typeTransmissionStatus body => Sys2Proof.Machine.execTypeTransmissionStatus body s
  | .typeAtResponse body => Sys2Proof.Machine.execTypeAtResponse body s
  | .typeRemoteAtResponse body => Sys2Proof.Machine.execTypeRemoteAtResponse body s
  | .typeRemoteAtRequestOutbound body => Sys2Proof.Machine.execTypeRemoteAtRequestOutbound body s
  | .typeUnknown t body => Sys2Proof.Machine.execTypeUnknown t body s
  | .dispatch t => Sys2Proof.Machine.execDispatch t s
  | .stuff bs => Sys2Proof.Machine.execStuff bs s
  | .frameEnc t body => Sys2Proof.Machine.execFrameEnc t body s
  | .frameRawLen t body => Sys2Proof.Machine.execFrameRawLen t body s
  | .errChecksumError => Sys2Proof.Machine.execErrChecksumError s
  | .errFrameTooLarge => Sys2Proof.Machine.execErrFrameTooLarge s
  | .errEscapeSequenceError => Sys2Proof.Machine.execErrEscapeSequenceError s
  | .errEmptyFrame => Sys2Proof.Machine.execErrEmptyFrame s
  | .tagUnknown => Sys2Proof.Machine.execTagUnknown s
  | .tagReceive => Sys2Proof.Machine.execTagReceive s
  | .tagTransmissionStatus => Sys2Proof.Machine.execTagTransmissionStatus s
  | .tagAtResponse => Sys2Proof.Machine.execTagAtResponse s
  | .tagRemoteAtResponse => Sys2Proof.Machine.execTagRemoteAtResponse s

end Sys2Proof.Machine
end

