-- ==== Sys2Proof/Machine/Step.lean ====
section
/-! DEFINITION. One step of the block (00_scope R7), and the presentation of a word of the opcode table. -/

namespace Sys2Proof.Machine

/-- One step: take the next input item and run the instruction it decodes to. While an event waits and the consumer
is not ready, the block takes no item and holds its state (20_memory R40); only the step passes at `ev_ready`. -/
def step (s : State) : Host.Outcome State Fault Refusal :=
  match fetch s with
  | some (i, t) => exec i t
  | none => .next s.tick

/-- The state in which a raw byte is read in the control state `c` (log 12): unchanged where the block already reads
it so. Into `WaitStart` the block comes by `idle_state()` (10_state R19 (a)). -/
def State.readingIn (s : State) (inFrame : Bool) : State :=
  if s.ctx.inFrame = inFrame then s
  else if inFrame then { s with st := .readLengthHigh }
  else s.idleState

/-- Present raw bytes before everything else, the consumer ready. -/
def State.presentFirst (s : State) (bytes : List Byte) : State :=
  { s with input := bytes.map (fun b => Pins.ofItem (.byte b)) ++ s.input, evReady := true :: s.evReady }

/-- The word of an opcode table row placed where `step` fetches next (log 12): a raw byte, or the two raw bytes of a
pair, read in the control state its row is for. A pair takes two steps, one input item each (00_scope R7). -/
def State.withFetchWord (s : State) (nbits w : Nat) : State :=
  if nbits = 8 then
    (s.readingIn (tableCtx (BitVec.ofNat 8 w)).inFrame).presentFirst [BitVec.ofNat 8 w]
  else if nbits = 16 then
    (s.readingIn true).presentFirst [(pairOfWord w).1, (pairOfWord w).2]
  else s

end Sys2Proof.Machine
end

