-- ==== Sys2Proof/Safety.lean ====
section
/-! DEFINITION. What a good state is (10_state R19), in the terms claims use. -/

namespace Sys2Proof.Machine

/-- The buffer holds exactly the cells 0, 1, …, `|buf| - 1` (20_memory R31: "in increasing index order from 0, one per
logical byte"). -/
abbrev Memory.contiguous (m : Memory) : Prop := m.map Prod.fst = List.range m.length

/-- `n` steps one after another, up to a stop: the host's run of the machine (`Laws/Run.lean`, `runSteps_eq_run`). -/
def runSteps : Nat → State → Res
  | 0, s => .next s
  | n + 1, s => andThen (step s) (runSteps n)

/-- All registers but `st` hold their reset values. -/
abbrev State.registersClear (s : State) : Prop :=
  s.len = 0 ∧ s.rem = 0 ∧ s.sum = 0 ∧ s.buf = []

/-- The invariants the spec gives every state between steps (10_state R19 (a) to (e)), with the buffer's cells in
place. -/
abbrev State.Inv (s : State) : Prop :=
  (s.st = .waitStart → s.esc = false ∧ s.registersClear) ∧
  (s.st = .readLengthHigh → s.registersClear) ∧
  (s.st = .readLengthLow → lengthLo s.len = 0 ∧ s.rem = 0 ∧ s.sum = 0 ∧ s.buf = []) ∧
  (s.st = .readBody →
    s.len.toNat ≤ s.maxLen.value ∧ 1 ≤ s.rem.toNat ∧ s.rem.toNat ≤ s.len.toNat + 1 ∧
    s.buf.length = s.len.toNat + 1 - s.rem.toNat ∧ s.buf.contiguous ∧ s.sum = sumMod s.buf.bytes)

end Sys2Proof.Machine
end

