-- ==== Sys2Proof/Certificates/Slice0/Obligations.lean ====
section
/-! DEFINITION. The statements for the provers. Each docstring names the rule of spec/ it formalises; "D<n>" is a
decision of spec/92_eei_decisions.md, "log <n>" an entry of notes/assumptions. -/

open Sys2Proof Sys2Proof.Machine

/-! ### Reset, input items, the step -/

/-- 10_state R20 (decision D10): after reset every register holds its reset value, whatever `MAX_LEN` is; no event is
out and `idle` is 1. The ports' lists are the model's (log 1, 3). -/
def Obligations.ResetHoldsTheIdleState : Prop :=
  (∀ m : MaxLen,
    let s := State.resetWith m
    s.st = .waitStart ∧ s.esc = false ∧ s.len = 0 ∧ s.rem = 0 ∧ s.sum = 0 ∧ s.buf = [] ∧ s.event = none ∧
      s.idle = true ∧ s.evValid = false ∧ s.maxLen = m) ∧
  ∃ m : MaxLen, State.reset = State.resetWith m

/-- 00_scope R7 (decision D1): a step consumes exactly one input item and runs the instruction it decodes to, once the
event of the step before is with the consumer (60_exceptions R142); with nothing presented the item is `None`
(10_state R10). -/
def Obligations.StepRunsTheDecodedInstruction : Prop :=
  ∀ s : State, s.inReady = true →
    (∀ (p : Pins) (ps : List Pins) (i : Instr), s.input = p :: ps → decode s.ctx (.item p.item) = .ok i →
      step s = exec i { s with delivered := s.delivered ++ s.event.toList, event := none,
                               evReady := s.evReady.tail, input := p.rest.toList ++ ps }) ∧
    (s.input = [] →
      step s = exec .noByte { s with delivered := s.delivered ++ s.event.toList, event := none,
                                     evReady := s.evReady.tail })

/-- 10_state R10, 60_exceptions R143 (decision D1): one of the asserted pins is acted on, `rst` before `eos` before
`in_valid`; what is not taken is presented again (log 2). -/
def Obligations.OnePinIsActedOnByPriority : Prop :=
  ∀ (s : State) (p : Pins) (ps : List Pins), s.inReady = true → s.input = p :: ps →
    let u := fun (left : List Pins) =>
      { s with delivered := s.delivered ++ s.event.toList, event := none, evReady := s.evReady.tail,
               input := left ++ ps }
    (p.rst = true →
      step s = exec .reset (u (if p.eos = true ∨ p.inValid = true then [{ p with rst := false }] else []))) ∧
    (p.rst = false → p.eos = true →
      step s = exec .unEos (u (if p.inValid = true then [{ p with eos := false }] else []))) ∧
    (p.rst = false → p.eos = false → p.inValid = true → step s = exec (decodeRaw s.ctx p.inData) (u [])) ∧
    (p.rst = false → p.eos = false → p.inValid = false → step s = exec .noByte (u []))

/-- 20_memory R40 (decision D15): while an event is not taken the block accepts no input and keeps the event. That
this holds for `Reset` too is the model's reading (log 4). -/
def Obligations.WaitingEventHoldsTheInput : Prop :=
  ∀ s : State, s.event.isSome = true → s.evReady.head? = some false →
    step s = .next { s with evReady := s.evReady.tail }

/-- 70_reset R160, R161 (decisions D10, D20): `Reset`, in every state, gives the idle state and no event, not even for
a frame in progress or a pending escape. That the units' output wires rest is the model's (log 20). -/
def Obligations.ResetDropsTheFrameSilently : Prop :=
  ∀ s : State, exec .reset s =
    .next { s with st := .waitStart, esc := false, len := 0, rem := 0, sum := 0, buf := [], event := none,
                   result := .none }

/-- 42_reassembler R101: `None` changes no register and produces no event, in every state, however often it comes: no
inter-byte timeout and no frame timeout. -/
def Obligations.NoneChangesNothingHoweverLong : Prop :=
  (∀ s : State, exec .noByte s = .next s) ∧
  ∀ (s : State) (n : Nat), s.event = none → s.evReady = [] → s.input = List.replicate n (Pins.ofItem .none) →
    runSteps n s = .next { s with input := [] }

/-- 41_unstuffer R84 (decision D7): `Eos` with an escape pending drops the escape and raises `EscapeSequenceError`,
every other register keeping its value; without one it has no effect and no event. -/
def Obligations.EosReportsOnlyAPendingEscape : Prop :=
  ∀ s : State,
    (s.esc = true →
      exec .unEos s = .next { s with esc := false, event := some (.error .escapeSequenceError) }) ∧
    (s.esc = false → exec .unEos s = .next s)

/-! ### The unstuffer -/

/-- 41_unstuffer R80: the escape marker sets `esc`, whatever `esc` was, and nothing else. -/
def Obligations.EscapeMarkerOnlySetsEsc : Prop :=
  ∀ s : State, s.st ≠ .waitStart →
    decodeRaw s.ctx 0x7D = .unEsc ∧ exec .unEsc s = .next { s with esc := true }

/-- 41_unstuffer R81: after a marker the byte is XORed with 0x20, `esc` is cleared, and the logical byte is delivered
to the reassembler in the same step. -/
def Obligations.XoredByteIsDeliveredInTheSameStep : Prop :=
  ∀ (s : State) (b : Byte), s.st ≠ .waitStart → s.esc = true → b ≠ 0x7D →
    decodeRaw s.ctx b = .unXor b ∧
    (∃ i, decodeLogical { s.ctx with esc := false } (b ^^^ 0x20) = .ok i ∧
      exec (.unXor b) s = exec i { s with esc := false }) ∧
    (s.Inv → ∃ t, exec (.unXor b) s = .next t ∧ t.esc = false)

/-- 41_unstuffer R82: without a marker the byte is delivered unchanged in the same step, and `esc` stays 0. -/
def Obligations.PassedByteIsDeliveredInTheSameStep : Prop :=
  ∀ (s : State) (b : Byte), s.st ≠ .waitStart → s.esc = false → b ≠ 0x7D →
    decodeRaw s.ctx b = .unPass b ∧
    (∃ i, decodeLogical s.ctx b = .ok i ∧ exec (.unPass b) s = exec i s) ∧
    (s.Inv → ∃ t, exec (.unPass b) s = .next t ∧ t.esc = false)

/-- 41_unstuffer R83 (decision D4): in `WaitStart` the raw byte goes to R90 or R91 unchanged; `esc` is untouched. -/
def Obligations.BypassedByteStartsOrIsSkipped : Prop :=
  ∀ (s : State) (b : Byte), s.st = .waitStart →
    exec (.unBypass b) s = exec (decodeRaw s.ctx b) s ∧
    exec (.unBypass b) s = .next { s with st := if b = 0x7E then .readLengthHigh else .waitStart }

/-- 30_encoding R54 and 41_unstuffer R81, R85: in a frame each raw pair `7D, b` stands for the one logical byte
`b XOR 0x20`, the four pairs of R54's table among them and every other pair too. -/
def Obligations.EscapePairStandsForOneLogicalByte : Prop :=
  (∀ s : State, s.st ≠ .waitStart →
    (∃ i, decodeLogical { s.ctx with esc := false } 0x7E = .ok i ∧ exec .escPair7E s = exec i { s with esc := false }) ∧
    (∃ i, decodeLogical { s.ctx with esc := false } 0x7D = .ok i ∧ exec .escPair7D s = exec i { s with esc := false }) ∧
    (∃ i, decodeLogical { s.ctx with esc := false } 0x11 = .ok i ∧ exec .escPair11 s = exec i { s with esc := false }) ∧
    (∃ i, decodeLogical { s.ctx with esc := false } 0x13 = .ok i ∧ exec .escPair13 s = exec i { s with esc := false }) ∧
    (∀ b : Byte, b ≠ 0x7D → ∃ i, decodeLogical { s.ctx with esc := false } (b ^^^ 0x20) = .ok i ∧
      exec (.escPairAny b) s = exec i { s with esc := false })) ∧
  (∀ s : State, s.Inv → s.st ≠ .waitStart →
    (∀ i ∈ [Instr.escPair7E, .escPair7D, .escPair11, .escPair13], ∃ t, exec i s = .next t) ∧
    ∀ b : Byte, b ≠ 0x7D → ∃ t, exec (.escPairAny b) s = .next t)

/-- 41_unstuffer R86: unstuffing what the reference encoder stuffed gives the bytes back, with no escape pending. -/
def Obligations.UnstuffInvertsStuff : Prop :=
  ∀ s : List Byte, unstuffBytes false (stuffBytes s) = (s, false)

/-- 41_unstuffer R86, R80 to R82: in `ReadBody`, with room in the counted span, a raw sequence fed to the block stores
exactly the bytes `unstuff` gives, and leaves `esc` as `unstuff` leaves it. -/
def Obligations.BlockUnstuffsAsTheFunctionDoes : Prop :=
  ∀ (s : State) (r : List Byte), s.Inv → s.st = .readBody → s.event = none → s.input = [] → s.evReady = [] →
    (unstuffBytes s.esc r).1.length < s.rem.toNat →
    ∃ t, runSteps r.length (s.presenting (r.map .byte)) = .next t ∧
      t.st = .readBody ∧ t.event = none ∧ t.len = s.len ∧ t.esc = (unstuffBytes s.esc r).2 ∧
      t.buf.bytes = s.buf.bytes ++ (unstuffBytes s.esc r).1 ∧
      t.rem.toNat + (unstuffBytes s.esc r).1.length = s.rem.toNat

/-! ### The reassembler -/

/-- 42_reassembler R90, R91: in `WaitStart` 0x7E goes to `ReadLengthHigh`, and the registers, which are 0 there in every
state between steps, stay as they are; any other byte, 0x7D included, is discarded: no register changes, no event. -/
def Obligations.WaitStartWatchesForTheMarker : Prop :=
  ∀ s : State, s.st = .waitStart →
    (decodeRaw s.ctx 0x7E = .wsStart ∧ exec .wsStart s = .next { s with st := .readLengthHigh }) ∧
    (∀ b : Byte, b ≠ 0x7E → decodeRaw s.ctx b = .wsSkip b ∧ exec (.wsSkip b) s = .next s) ∧
    (s.Inv → s.esc = false ∧ s.len = 0 ∧ s.rem = 0 ∧ s.sum = 0 ∧ s.buf = [])

/-- 42_reassembler R92: the high length byte, never rejected. -/
def Obligations.HighLengthByteIsShifted : Prop :=
  ∀ (s : State) (v : Byte), s.st = .readLengthHigh →
    decodeLogical s.ctx v = .ok (.rlhByte v) ∧
    ∃ L : Half, L.toNat = 256 * v.toNat ∧ exec (.rlhByte v) s = .next { s with len := L, st := .readLengthLow }

/-- 42_reassembler R93: a length `L <= MAX_LEN` is accepted: `rem` is `L + 1` without wrap, the accumulator is cleared
and the buffer emptied. -/
def Obligations.AcceptedLengthStartsTheBody : Prop :=
  ∀ (s : State) (v : Byte), s.st = .readLengthLow →
    let L : Half := s.len ||| v.setWidth 16
    L.toNat ≤ s.maxLen.value →
    decodeLogical s.ctx v = .ok (.rllAccept v) ∧
    exec (.rllAccept v) s = .next { s with len := L, rem := L + 1, sum := 0, buf := [], st := .readBody } ∧
    (L + 1).toNat = L.toNat + 1 ∧ (lengthLo s.len = 0 → L.toNat = s.len.toNat + v.toNat)

/-- 42_reassembler R94 (decision D5), 70_reset R181: a length above `MAX_LEN` is rejected at the low length byte, the
field value being compared; `L = 0xFFFF` always is (90_conflicts C6). -/
def Obligations.OversizedLengthIsRejectedAtOnce : Prop :=
  ∀ (s : State) (v : Byte), s.st = .readLengthLow →
    let L : Half := s.len ||| v.setWidth 16
    (s.maxLen.value < L.toNat →
      decodeLogical s.ctx v = .ok (.rllTooLarge v) ∧
      exec (.rllTooLarge v) s =
        .next { s with st := .waitStart, esc := false, len := 0, rem := 0, sum := 0, buf := [],
                       event := some (.error .frameTooLarge) }) ∧
    (L = 0xFFFF → s.maxLen.value < L.toNat)

/-- 42_reassembler R95 and 20_memory R31: a type or body byte is stored at index `|buf|`, added to the accumulator and
counted; every other cell and register is unchanged. -/
def Obligations.BodyByteIsStoredSummedAndCounted : Prop :=
  ∀ (s : State) (v : Byte), s.st = .readBody → 1 < s.rem.toNat → s.buf.length ≤ s.maxLen.value →
    decodeLogical s.ctx v = .ok (.rbStore v) ∧
    ∃ m : Memory,
      exec (.rbStore v) s =
        .next { s with buf := m, sum := BitVec.ofNat 8 (s.sum.toNat + v.toNat), rem := s.rem - 1 } ∧
      (s.rem - 1).toNat + 1 = s.rem.toNat ∧
      m.read s.buf.length = some v ∧
      (∀ a, a ≠ s.buf.length → m.read a = s.buf.read a) ∧
      (s.buf.contiguous → m.contiguous ∧ m.bytes = s.buf.bytes ++ [v])

/-- 42_reassembler R96: the last byte of the span tests the checksum first, then the length; exactly one of R97, R98,
R99 completes the step, and each ends in the idle state with exactly one event. -/
def Obligations.LastByteCompletesTheFrame : Prop :=
  ∀ (s : State) (v : Byte), s.st = .readBody → s.rem = 1 →
    decodeLogical s.ctx v = .ok (.rbLast v) ∧
    (v ≠ 0xFF - s.sum → exec (.rbLast v) s = exec (.doneBadCk v) s) ∧
    (v = 0xFF - s.sum → s.len = 0 → exec (.rbLast v) s = exec (.doneEmpty v) s) ∧
    (v = 0xFF - s.sum → s.len ≠ 0 → exec (.rbLast v) s = exec (.doneOk v) s) ∧
    (s.Inv → ∃ e : Event, exec (.rbLast v) s =
      .next { s with st := .waitStart, esc := false, len := 0, rem := 0, sum := 0, buf := [], event := some e })

/-- 42_reassembler R97: a valid frame with a type byte goes out as a packet, and the block returns to the idle
state. -/
def Obligations.ValidFrameIsDeliveredAsAPacket : Prop :=
  ∀ (s : State) (t : Byte) (body : List Byte) (c : Byte), s.st = .readBody → s.rem = 1 → c = 0xFF - s.sum →
    s.buf.contiguous → s.buf.bytes = t :: body → s.len.toNat = body.length + 1 → s.len.toNat ≤ s.maxLen.value →
    exec (.doneOk c) s =
      .next { s with st := .waitStart, esc := false, len := 0, rem := 0, sum := 0, buf := [],
                     event := some (.packet { tag := dispatchTag t, frameType := t, body := body, cksum := c,
                                              fields := view (dispatchTag t) body }) }

/-- 42_reassembler R98: a wrong checksum, whatever the length, discards the frame with `ChecksumError`. -/
def Obligations.CorruptFrameIsDiscarded : Prop :=
  ∀ (s : State) (c : Byte), s.st = .readBody → s.rem = 1 → c ≠ 0xFF - s.sum →
    exec (.doneBadCk c) s =
      .next { s with st := .waitStart, esc := false, len := 0, rem := 0, sum := 0, buf := [],
                     event := some (.error .checksumError) }

/-- 42_reassembler R99 (decision D8): a zero length with the right checksum is an `EmptyFrame`. -/
def Obligations.EmptyFrameIsReported : Prop :=
  ∀ (s : State) (c : Byte), s.st = .readBody → s.rem = 1 → c = 0xFF - s.sum → s.len = 0 →
    exec (.doneEmpty c) s =
      .next { s with st := .waitStart, esc := false, len := 0, rem := 0, sum := 0, buf := [],
                     event := some (.error .emptyFrame) }

/-- 42_reassembler R100: inside a frame 0x7E is never a start marker: raw it is the logical byte 0x7E, as `7D 5E` too,
and after an escape marker it is the logical byte 0x5E. The block cannot leave `ReadBody` before the last byte of the
span, but by `Reset`. -/
def Obligations.StartMarkerInsideAFrameIsData : Prop :=
  (∀ s : State, s.st ≠ .waitStart →
    (s.esc = false → decodeRaw s.ctx 0x7E = .unPass 0x7E ∧
      ∃ i, decodeLogical s.ctx 0x7E = .ok i ∧ exec (.unPass 0x7E) s = exec i s) ∧
    (s.esc = true → decodeRaw s.ctx 0x5E = .unXor 0x5E ∧ decodeRaw s.ctx 0x7E = .unXor 0x7E ∧
      (∃ i, decodeLogical { s.ctx with esc := false } 0x7E = .ok i ∧
        exec (.unXor 0x5E) s = exec i { s with esc := false }) ∧
      ∃ i, decodeLogical { s.ctx with esc := false } 0x5E = .ok i ∧
        exec (.unXor 0x7E) s = exec i { s with esc := false })) ∧
  ∀ s t : State, s.st = .readBody → 1 < s.rem.toNat → (∀ p ∈ s.input.head?, p.item ≠ .reset) → step s = .next t →
    t.st = .readBody ∧ (t.rem = s.rem ∨ t.rem.toNat + 1 = s.rem.toNat)

/-- 30_encoding R50 to R53, 42_reassembler R91 to R99: FRAME from `WaitStart`, every way it can end: a packet, a
`ChecksumError`, a `FrameTooLarge` (the model ends the row there, log 11), an `EmptyFrame` (decision D8). -/
def Obligations.WholeFrameHasOneOutcome : Prop :=
  ∀ (s : State) (len : Half) (tb : List Byte) (c : Byte), s.st = .waitStart → tb.length = len.toNat →
    let idleWith := fun (e : Event) =>
      { s with st := .waitStart, esc := false, len := 0, rem := 0, sum := 0, buf := [], event := some e }
    (s.maxLen.value < len.toNat → exec (.frame len (tb ++ [c])) s = .next (idleWith (.error .frameTooLarge))) ∧
    (len.toNat ≤ s.maxLen.value → c ≠ ck tb →
      exec (.frame len (tb ++ [c])) s = .next (idleWith (.error .checksumError))) ∧
    (len = 0 → c = 0xFF → exec (.frame len (tb ++ [c])) s = .next (idleWith (.error .emptyFrame))) ∧
    (∀ (t : Byte) (body : List Byte), len.toNat ≤ s.maxLen.value → tb = t :: body → c = ck tb →
      exec (.frame len (tb ++ [c])) s = .next (idleWith (.packet (packetOf t body c))))

/-! ### The checksum -/

/-- 40_checksum R71, and R70 (which the spec derives from R72): CK_CLEAR, and CK_ADD modulo 256, the carry stored
nowhere. -/
def Obligations.AccumulatorClearsAndAddsModulo256 : Prop :=
  ∀ (s : State) (v : Byte),
    exec .ckClear s = .next { s with sum := 0 } ∧
    exec (.ckAdd v) s = .next { s with sum := BitVec.ofNat 8 ((s.sum.toNat + v.toNat) % 256) }

/-- 40_checksum R72: CK_VALUE on a sequence and on the register; no borrow, and equally the complement of the low byte
of the sum. The output wires that show the value are the model's own (log 6). -/
def Obligations.CkValueIsComplementOfTheSum : Prop :=
  ∀ (s : State) (bs : List Byte),
    (∃ v : Byte, exec (.ckValue (.seq bs)) s = .next { s with result := .byte v } ∧
      v.toNat = 255 - (bs.map BitVec.toNat).sum % 256 ∧ v = ~~~ BitVec.ofNat 8 (bs.map BitVec.toNat).sum) ∧
    exec (.ckValue .register) s = .next { s with result := .byte (0xFF - s.sum) }

/-- 40_checksum R73: CK_CHECK on a sequence and on the register, `valid(s, c) = (c == ck(s))`. R73 stores the result
nowhere; that it stays on output wires of the model's own, `State.result`, is the model's choice (log 6). -/
def Obligations.CkCheckComparesWithTheValue : Prop :=
  ∀ (s : State) (bs : List Byte) (c : Byte),
    exec (.ckCheck (.seq bs) c) s =
      .next { s with result := .truth (decide (c.toNat = 255 - (bs.map BitVec.toNat).sum % 256)) } ∧
    exec (.ckCheck .register c) s = .next { s with result := .truth (decide (c = 0xFF - s.sum)) }

/-- 40_checksum R74 (b), (c), (d): a checksum is valid exactly when everything sums to 0xFF modulo 256; the order of
the bytes does not matter; appended zeros do not. -/
def Obligations.ChecksumLaws : Prop :=
  (∀ (bs : List Byte) (c : Byte), c = ck bs ↔ ((bs.map BitVec.toNat).sum + c.toNat) % 256 = 255) ∧
  (∀ bs bs' : List Byte, bs.Perm bs' → ck bs = ck bs') ∧
  (∀ (bs : List Byte) (n : Nat), ck (bs ++ List.replicate n 0) = ck bs)

/-- 40_checksum R74 (e): flipping any one bit of the bytes, or of the checksum byte, makes the check fail. -/
def Obligations.SingleBitFlipsAreDetected : Prop :=
  ∀ (xs ys : List Byte) (v : Byte) (k : Nat), k < 8 →
    ck (xs ++ (v ^^^ ((1 : Byte) <<< k)) :: ys) ≠ ck (xs ++ v :: ys) ∧
    ck (xs ++ v :: ys) ^^^ ((1 : Byte) <<< k) ≠ ck (xs ++ v :: ys)

/-! ### The dispatcher -/

/-- 43_dispatcher R110: the match is on all eight bits of the type byte and on nothing else. -/
def Obligations.DispatchMapsTheTypeByte : Prop :=
  ∀ (s : State) (t : Byte),
    exec (.dispatch t) s =
      .next { s with result := .tag (if t.toNat = 0x90 then .receive else if t.toNat = 0x8B then .transmissionStatus
        else if t.toNat = 0x88 then .atResponse else if t.toNat = 0x97 then .remoteAtResponse else .unknown) }

/-- 43_dispatcher R114 to R118 (decision D12): the fields of the four variants, packed in order, the last byte being
the link quality; in `TransmissionStatus` the bytes between the status code and the last byte are in no field
(90_conflicts C7). -/
def Obligations.VariantFieldsArePackedInOrder : Prop :=
  ∀ (s : State) (long short cmd payload : List Byte) (fid status lqi : Byte),
    long.length = 8 → short.length = 2 → cmd.length = 2 →
    exec (.typeReceive (long ++ short ++ payload ++ [lqi])) s =
      .next { s with result := .variant .receive (some
        [(.sourceLongAddr, long), (.sourceShortAddr, short), (.payload, payload), (.linkQuality, [lqi])]) } ∧
    exec (.typeTransmissionStatus ([fid] ++ short ++ [status] ++ payload ++ [lqi])) s =
      .next { s with result := .variant .transmissionStatus (some
        [(.frameId, [fid]), (.destinationShortAddr, short), (.statusCode, [status]), (.linkQuality, [lqi])]) } ∧
    exec (.typeAtResponse ([fid] ++ cmd ++ payload ++ [lqi])) s =
      .next { s with result := .variant .atResponse (some
        [(.frameId, [fid]), (.command, cmd), (.payload, payload), (.linkQuality, [lqi])]) } ∧
    exec (.typeRemoteAtResponse ([fid] ++ long ++ short ++ cmd ++ [status] ++ payload ++ [lqi])) s =
      .next { s with result := .variant .remoteAtResponse (some
        [(.frameId, [fid]), (.sourceLongAddr, long), (.sourceShortAddr, short), (.command, cmd),
         (.statusCode, [status]), (.payload, payload), (.linkQuality, [lqi])]) }

/-- 43_dispatcher R120 (decision D13): a body shorter than the variant's minimum has no field view; the tag stays. -/
def Obligations.ShortBodyHasNoFields : Prop :=
  ∀ (s : State) (body : List Byte),
    (body.length < 11 → exec (.typeReceive body) s = .next { s with result := .variant .receive none }) ∧
    (body.length < 5 →
      exec (.typeTransmissionStatus body) s = .next { s with result := .variant .transmissionStatus none }) ∧
    (body.length < 4 → exec (.typeAtResponse body) s = .next { s with result := .variant .atResponse none }) ∧
    (body.length < 15 →
      exec (.typeRemoteAtResponse body) s = .next { s with result := .variant .remoteAtResponse none })

/-- 43_dispatcher R119 (and 30_encoding R57 for 0x17): `Unknown` has the empty view for every body. -/
def Obligations.UnknownHasTheEmptyView : Prop :=
  ∀ (s : State) (t : Byte) (body : List Byte),
    (t ≠ 0x90 → t ≠ 0x8B → t ≠ 0x88 → t ≠ 0x97 →
      exec (.typeUnknown t body) s = .next { s with result := .variant .unknown (some []) }) ∧
    exec (.typeRemoteAtRequestOutbound body) s = .next { s with result := .variant .unknown (some []) }

/-- 43_dispatcher R110 to R122: a packet's tag and fields are those of its type byte's row, whatever came before. -/
def Obligations.PacketAgreesWithItsTypeRow : Prop :=
  ∀ (s : State) (t : Byte) (body : List Byte) (c : Byte),
    exec (decodeType t body) s =
      .next { s with result := .variant (packetOf t body c).tag (packetOf t body c).fields }

/-- 43_dispatcher R111, 60_exceptions R140, 10_state R10, R18 (decisions D1, D9, D11, D16): the codes on `ev_tag`, in
the rows and at the port, and the codes on `ev_err`; 0 and 5 to 7 are never on `ev_err`, 5 to 7 never on `ev_tag`. An
error event carries its code only. `idle` is 1 exactly in `WaitStart`, `in_ready` 0 exactly while an event waits that
the consumer does not take. Ports without meaning answer no value (log 21); the levels of `ev_ready` are log 3. -/
def Obligations.PortsShowTheEventsCode : Prop :=
  (∀ s : State,
    exec .tagUnknown s = .next { s with result := .tagPort .unknown 0 } ∧
    exec .tagReceive s = .next { s with result := .tagPort .receive 1 } ∧
    exec .tagTransmissionStatus s = .next { s with result := .tagPort .transmissionStatus 2 } ∧
    exec .tagAtResponse s = .next { s with result := .tagPort .atResponse 3 } ∧
    exec .tagRemoteAtResponse s = .next { s with result := .tagPort .remoteAtResponse 4 }) ∧
  (∀ (s : State) (p : Packet), s.event = some (.packet p) →
    s.evValid = true ∧ s.evKind = some 0 ∧ s.evErr = none ∧ s.evTag = some (tagCode p.tag) ∧
    s.evType = some p.frameType ∧ s.evBody = some p.body ∧ s.evCksum = some p.cksum ∧
    (p.body.length < 65535 → s.evLen.map BitVec.toNat = some (1 + p.body.length))) ∧
  (∀ (s : State) (e : ErrCode), s.event = some (.error e) →
    s.evValid = true ∧ s.evKind = some 1 ∧ s.evTag = none ∧ s.evErr = some (errCode e) ∧
    s.evType = none ∧ s.evLen = none ∧ s.evBody = none ∧ s.evCksum = none) ∧
  (∀ s : State, s.event = none → s.evValid = false ∧ s.evKind = none ∧ s.evErr = none ∧ s.evTag = none) ∧
  (errCode .checksumError = 1 ∧ errCode .frameTooLarge = 2 ∧ errCode .escapeSequenceError = 3 ∧
    errCode .emptyFrame = 4) ∧
  (tagCode .unknown = 0 ∧ tagCode .receive = 1 ∧ tagCode .transmissionStatus = 2 ∧ tagCode .atResponse = 3 ∧
    tagCode .remoteAtResponse = 4) ∧
  (∀ code : Code3, (∃ e, errCode e = code) ↔ (1 ≤ code.toNat ∧ code.toNat ≤ 4)) ∧
  (∀ code : Code3, (∃ g, tagCode g = code) ↔ code.toNat ≤ 4) ∧
  (∀ s : State, (s.idle = true ↔ s.st = .waitStart) ∧ (s.Inv → s.idle = true → s.esc = false ∧ s.buf = [])) ∧
  (∀ s : State, s.inReady = false ↔ s.event.isSome = true ∧ s.evReady.head? = some false)

/-! ### Errors -/

/-- 60_exceptions R144: what each error changes: the event and the recovery, in the raising step, nothing saved. -/
def Obligations.ErrorEntryIsOneStep : Prop :=
  ∀ s : State,
    let idleWith := fun (e : ErrCode) =>
      { s with st := .waitStart, esc := false, len := 0, rem := 0, sum := 0, buf := [], event := some (.error e) }
    exec .errChecksumError s = .next (idleWith .checksumError) ∧
    exec .errFrameTooLarge s = .next (idleWith .frameTooLarge) ∧
    exec .errEmptyFrame s = .next (idleWith .emptyFrame) ∧
    exec .errEscapeSequenceError s =
      .next { s with esc := false, event := some (.error .escapeSequenceError) }

/-- 60_exceptions R144, R145 and 42_reassembler R97: after a step that outputs anything but `EscapeSequenceError` the
block is in the idle state. -/
def Obligations.EveryOtherEventEndsIdle : Prop :=
  ∀ (s t : State) (e : Event), s.inReady = true → step s = .next t → t.event = some e →
    e ≠ .error .escapeSequenceError → t.idle = true ∧ t.esc = false ∧ t.registersClear

/-- 41_unstuffer R85: only `Eos` with an escape pending raises `EscapeSequenceError`; no byte does. -/
def Obligations.EscapeErrorComesOnlyFromEos : Prop :=
  ∀ s t : State, s.inReady = true → step s = .next t → t.event = some (.error .escapeSequenceError) →
    s.esc = true ∧ ∃ p ∈ s.input.head?, p.item = .eos

/-! ### The shorthands -/

/-- 44_reference_encoder R130: STUFF byte by byte; the output holds no 0x7E, 0x11 or 0x13, 0x7D only as the first byte
of a pair, and is between once and twice as long. -/
def Obligations.StuffReplacesEscapableBytes : Prop :=
  ∀ (s : State) (bs : List Byte), ∃ out : List Byte,
    exec (.stuff bs) s = .next { s with result := .bytes out } ∧
    out = (bs.map fun v =>
      if v = 0x7E ∨ v = 0x7D ∨ v = 0x11 ∨ v = 0x13 then [0x7D, v ^^^ 0x20] else [v]).flatten ∧
    0x7E ∉ out ∧ 0x11 ∉ out ∧ 0x13 ∉ out ∧ bs.length ≤ out.length ∧ out.length ≤ 2 * bs.length ∧
    ∀ xs ys : List Byte, out = xs ++ 0x7D :: ys → ∃ y zs, ys = y :: zs ∧ y ∈ [0x5E, 0x5D, 0x31, 0x33]

/-- 44_reference_encoder R131 (decision D19), R133: the two encoders, `L = 1 + |B|` high byte first. -/
def Obligations.EncodersWriteTheWireForm : Prop :=
  ∀ (s : State) (t : Byte) (body : List Byte), 1 + body.length ≤ 65535 →
    ∃ hi lo : Byte, 256 * hi.toNat + lo.toNat = 1 + body.length ∧
      exec (.frameEnc t body) s =
        .next { s with result := .bytes ([0x7E] ++ stuffBytes [hi, lo]
                                          ++ stuffBytes ([t] ++ body ++ [ck (t :: body)])) } ∧
      exec (.frameRawLen t body) s =
        .next { s with result := .bytes ([0x7E, hi, lo] ++ stuffBytes ([t] ++ body ++ [ck (t :: body)])) }

/-! ### Encodings -/

/-- 30_encoding R54, R56: words written out from the spec's encodings. -/
def Obligations.TableWordsDecode : Prop :=
  decodeTableWord 8 0x7E = some .wsStart ∧ decodeTableWord 8 0x41 = some (.wsSkip 0x41) ∧
  decodeTableWord 8 0x7D = some .unEsc ∧
  decodeTableWord 16 0x7D5E = some .escPair7E ∧ decodeTableWord 16 0x7D5D = some .escPair7D ∧
  decodeTableWord 16 0x7D31 = some .escPair11 ∧ decodeTableWord 16 0x7D33 = some .escPair13 ∧
  decodeTableWord 16 0x7D41 = some (.escPairAny 0x41) ∧ decodeTableWord 16 0x7D7D = none

/-- Encode, then decode, gives the instruction back, with every operand, in every state its rule applies in. -/
def Obligations.DecodeOfEncodeIsTheInstruction : Prop :=
  ∀ (c : Ctx) (i : Instr) (k : Code), i.wellFormed = true → i.applies c = true → encode i = some k →
    decode c k = .ok i

/-- What a code decodes to is well formed, applies in the state it was decoded in, and is encoded by that code. -/
def Obligations.EncodeOfDecodeIsTheCode : Prop :=
  ∀ (c : Ctx) (k : Code) (i : Instr), decode c k = .ok i →
    i.wellFormed = true ∧ i.applies c = true ∧ encode i = some k

/-! ### The machine -/

/-- Every instruction completes where its rule applies, from every state that meets the invariant (10_state R19). -/
def Obligations.EveryApplicableInstructionCompletes : Prop :=
  ∀ (i : Instr) (s : State), s.Inv → i.applies s.ctx = true → ∃ t, exec i s = .next t

/-- Outside its rule's "Applies when" and "Operands" lines an instruction stops by name (log 7). -/
def Obligations.OutsideItsRuleAnInstructionStops : Prop :=
  ∀ (i : Instr) (s : State), i.applies s.ctx = false → exec i s = .refused .ruleDoesNotApply

/-- 10_state R19: reset meets the invariant, whatever `MAX_LEN` is. -/
def Obligations.ResetMeetsTheInvariant : Prop :=
  State.reset.Inv ∧ ∀ m : MaxLen, (State.resetWith m).Inv

/-- 10_state R19: every step keeps the invariant: the idle state is unique, the counter, the buffer and the
accumulator agree, `len <= MAX_LEN`. -/
def Obligations.EveryStepKeepsTheInvariant : Prop :=
  ∀ s t : State, s.Inv → step s = .next t → t.Inv

/-- 00_scope R7, 60_exceptions R145: the block never halts, faults or refuses. -/
def Obligations.TheBlockNeverStops : Prop :=
  ∀ s : State, s.Inv → ∃ t, step s = .next t

/-- 00_scope R7, 20_memory R38, R40: a step outputs at most one event, after every event before it; none is lost and
none repeated. -/
def Obligations.EventsAreAppendedOneByOne : Prop :=
  ∀ s t : State, step s = .next t → t.outputs = s.outputs ∨ ∃ e, t.event = some e ∧ t.outputs = s.outputs ++ [e]

/-- 70_reset R162 (a): no instruction and no step changes `MAX_LEN`; no instruction touches the input side or the
events already taken; none but `Reset` and those that drive a result (the functions, the type, tag and shorthand rows,
`CK_CHECK`) touches the output wires of the units, which are the model's own (log 6), and in a step only `Reset` clears
them (log 20). -/
def Obligations.InstructionsLeaveTheEnvironmentAlone : Prop :=
  (∀ (i : Instr) (s t : State), exec i s = .next t →
    t.maxLen = s.maxLen ∧ t.delivered = s.delivered ∧ t.input = s.input ∧ t.evReady = s.evReady ∧
    (i ≠ .reset →
      i.format ∈ [.inputItem, .rawByte, .rawPair, .logicalByte, .completion, .frame, .evErrCode] ∨
        i = .ckClear ∨ (∃ v, i = .ckAdd v) →
      t.result = s.result)) ∧
  ∀ s t : State, step s = .next t →
    t.maxLen = s.maxLen ∧ (t.result = s.result ∨ t.result = .none ∧ ∃ p ∈ s.input.head?, p.rst = true)

/-- 43_dispatcher R122, 44_reference_encoder, 00_scope R3 (e): the functions and shorthands change nothing but the
output wires: every register, every byte of the buffer, every port as before. -/
def Obligations.FunctionsChangeOnlyTheOutputWires : Prop :=
  ∀ (i : Instr) (s t : State), i.format ∈ [.function, .typeByte, .pseudo, .evTagCode] ∨ (∃ src c, i = .ckCheck src c) →
    exec i s = .next t → t = { s with result := t.result } ∧ ∀ a, t.buf.read a = s.buf.read a

/-- 20_memory R31: an instruction that takes a byte stores it, if at all, at index `|buf|` in `ReadBody` before the
last byte of the span; every other cell reads as before, and `st`, `len` and the event stay. -/
def Obligations.ByteTakersStoreOnlyAtTheWriteIndex : Prop :=
  ∀ (i : Instr) (s t : State), i.format ∈ [.rawByte, .rawPair, .logicalByte] → s.st = .readBody → 1 < s.rem.toNat →
    exec i s = .next t →
    (∀ a, a ≠ s.buf.length → t.buf.read a = s.buf.read a) ∧
    t.st = .readBody ∧ t.len = s.len ∧ t.event = s.event ∧
    (i = .unEsc → t.buf.read s.buf.length = s.buf.read s.buf.length ∧ t.rem = s.rem ∧ t.sum = s.sum) ∧
    (i ≠ .unEsc → t.rem = s.rem - 1 ∧ ∃ v, t.buf.read s.buf.length = some v ∧ t.sum = s.sum + v)

/-- 41_unstuffer R80, R84, 42_reassembler R90 to R92, 40_checksum R70, R71: the instructions that store nothing and
clear nothing leave every byte of the buffer, the counter and the ports alone. -/
def Obligations.NonStoringInstructionsKeepTheBuffer : Prop :=
  ∀ (i : Instr) (s t : State),
    i ∈ [.unEos, .noByte, .wsStart, .unEsc, .ckClear, .errEscapeSequenceError] ∨
      (∃ b, i = .wsSkip b ∨ i = .unBypass b ∨ i = .rlhByte b ∨ i = .ckAdd b) →
    exec i s = .next t →
    (∀ a, t.buf.read a = s.buf.read a) ∧ t.rem = s.rem ∧
    (i.format ≠ .microOp → t.sum = s.sum) ∧
    (i.format = .microOp → t.st = s.st ∧ t.esc = s.esc) ∧
    ((∀ b, i ≠ .rlhByte b) → t.len = s.len) ∧
    (i ≠ .unEos → i ≠ .errEscapeSequenceError → t.event = s.event)

/-- 20_memory R31 and the canonical form of the buffer: every instruction keeps it. -/
def Obligations.BufferKeepsItsCanonicalForm : Prop :=
  ∀ (i : Instr) (s t : State), s.buf.wf = true → exec i s = .next t → t.buf.wf = true

/-- 42_reassembler R93, R96, R97 (95_test_vectors section 4, item 9): every packet of a step carries the checksum of its
type and body, a length within `MAX_LEN`, and the tag and fields of its type byte. -/
def Obligations.PacketsAreValidated : Prop :=
  ∀ (s t : State) (p : Packet), s.Inv → s.inReady = true → step s = .next t → t.event = some (.packet p) →
    p.cksum = ck (p.frameType :: p.body) ∧ 1 + p.body.length ≤ s.maxLen.value ∧
    p = packetOf p.frameType p.body p.cksum

/-- 10_state R23, 20_memory R35: feeding a stream as one chunk or as two gives the same state and the same events. -/
def Obligations.ChunkBoundariesAreInvisible : Prop :=
  ∀ (s : State) (xs ys : List Item), s.input = [] → s.evReady = [] →
    runSteps (xs.length + ys.length) (s.presenting (xs ++ ys)) =
      andThen (runSteps xs.length (s.presenting xs))
        fun t => runSteps ys.length (t.presenting ys)

/-- 44_reference_encoder R132: feeding `FRAME(T, B)` to the idle block yields exactly one event, at the last byte, the
packet of `T` and `B`, and leaves the idle state, for every type byte and every body that fits. -/
def Obligations.FrameRoundTrip : Prop :=
  ∀ (s : State) (t : Byte) (body : List Byte), s.Inv → s.st = .waitStart → s.event = none → s.input = [] →
    s.evReady = [] → 1 + body.length ≤ s.maxLen.value →
    (∃ u, runSteps ((frameBytes t body).length - 1)
        (s.presenting ((frameBytes t body).map .byte)) = .next u ∧ u.outputs = s.outputs) ∧
    runSteps (frameBytes t body).length (s.presenting ((frameBytes t body).map .byte)) =
      .next { s with event := some (.packet (packetOf t body (ck (t :: body)))) }

/-- 44_reference_encoder R133: the block decodes a frame with its length sent raw when neither length byte is 0x7D. -/
def Obligations.RawLengthRoundTrip : Prop :=
  ∀ (s : State) (t : Byte) (body : List Byte), s.Inv → s.st = .waitStart → s.event = none → s.input = [] →
    s.evReady = [] → 1 + body.length ≤ s.maxLen.value →
    (1 + body.length) / 256 ≠ 0x7D → (1 + body.length) % 256 ≠ 0x7D →
    runSteps (frameRawLenBytes t body).length
        (s.presenting ((frameRawLenBytes t body).map .byte)) =
      .next { s with event := some (.packet (packetOf t body (ck (t :: body)))) }

/-- 42_reassembler R104 (the document's resync property): frame A with its checksum byte replaced by a wrong byte that is
not 0x7D, then frame B, yields exactly one `ChecksumError` and the packet of B. -/
def Obligations.ResynchronisesAfterACorruptChecksum : Prop :=
  ∀ (s : State) (t t' wrong : Byte) (body body' : List Byte), s.Inv → s.st = .waitStart → s.event = none →
    s.input = [] → s.evReady = [] → 1 + body.length ≤ s.maxLen.value → 1 + body'.length ≤ s.maxLen.value →
    wrong ≠ ck (t :: body) → wrong ≠ 0x7D →
    let corrupt := [0x7E] ++ stuffBytes [lengthHi (frameLength body), lengthLo (frameLength body)]
      ++ stuffBytes (t :: body) ++ [wrong]
    let stream := corrupt ++ frameBytes t' body'
    ∃ u, runSteps stream.length (s.presenting (stream.map .byte)) = .next u ∧
      u.outputs = s.outputs ++ [.error .checksumError, .packet (packetOf t' body' (ck (t' :: body')))]
end

