-- ==== Sys2Proof/Laws/State.lean ====
section
/-! SUPPORT. One lemma per field and update of State, true by rfl, so that no later proof unfolds an update. -/

namespace Sys2Proof.Machine

section Updates
variable (s : State)

@[simp] theorem State.idleState_st : (s.idleState).st = .waitStart := rfl
@[simp] theorem State.idleState_esc : (s.idleState).esc = false := rfl
@[simp] theorem State.idleState_len : (s.idleState).len = 0 := rfl
@[simp] theorem State.idleState_rem : (s.idleState).rem = 0 := rfl
@[simp] theorem State.idleState_sum : (s.idleState).sum = 0 := rfl
@[simp] theorem State.idleState_buf : (s.idleState).buf = [] := rfl
@[simp] theorem State.idleState_maxLen : (s.idleState).maxLen = s.maxLen := rfl
@[simp] theorem State.idleState_event : (s.idleState).event = s.event := rfl
@[simp] theorem State.idleState_delivered : (s.idleState).delivered = s.delivered := rfl
@[simp] theorem State.idleState_input : (s.idleState).input = s.input := rfl
@[simp] theorem State.idleState_evReady : (s.idleState).evReady = s.evReady := rfl
@[simp] theorem State.idleState_result : (s.idleState).result = s.result := rfl

@[simp] theorem State.emit_st (e : Event) : (s.emit e).st = s.st := rfl
@[simp] theorem State.emit_esc (e : Event) : (s.emit e).esc = s.esc := rfl
@[simp] theorem State.emit_len (e : Event) : (s.emit e).len = s.len := rfl
@[simp] theorem State.emit_rem (e : Event) : (s.emit e).rem = s.rem := rfl
@[simp] theorem State.emit_sum (e : Event) : (s.emit e).sum = s.sum := rfl
@[simp] theorem State.emit_buf (e : Event) : (s.emit e).buf = s.buf := rfl
@[simp] theorem State.emit_maxLen (e : Event) : (s.emit e).maxLen = s.maxLen := rfl
@[simp] theorem State.emit_event (e : Event) : (s.emit e).event = some e := rfl
@[simp] theorem State.emit_delivered (e : Event) : (s.emit e).delivered = s.delivered := rfl
@[simp] theorem State.emit_input (e : Event) : (s.emit e).input = s.input := rfl
@[simp] theorem State.emit_evReady (e : Event) : (s.emit e).evReady = s.evReady := rfl
@[simp] theorem State.emit_result (e : Event) : (s.emit e).result = s.result := rfl

@[simp] theorem State.withResult_st (r : Result) : (s.withResult r).st = s.st := rfl
@[simp] theorem State.withResult_esc (r : Result) : (s.withResult r).esc = s.esc := rfl
@[simp] theorem State.withResult_len (r : Result) : (s.withResult r).len = s.len := rfl
@[simp] theorem State.withResult_rem (r : Result) : (s.withResult r).rem = s.rem := rfl
@[simp] theorem State.withResult_sum (r : Result) : (s.withResult r).sum = s.sum := rfl
@[simp] theorem State.withResult_buf (r : Result) : (s.withResult r).buf = s.buf := rfl
@[simp] theorem State.withResult_maxLen (r : Result) : (s.withResult r).maxLen = s.maxLen := rfl
@[simp] theorem State.withResult_event (r : Result) : (s.withResult r).event = s.event := rfl
@[simp] theorem State.withResult_delivered (r : Result) : (s.withResult r).delivered = s.delivered := rfl
@[simp] theorem State.withResult_input (r : Result) : (s.withResult r).input = s.input := rfl
@[simp] theorem State.withResult_evReady (r : Result) : (s.withResult r).evReady = s.evReady := rfl
@[simp] theorem State.withResult_result (r : Result) : (s.withResult r).result = r := rfl

@[simp] theorem State.applyReset_st : (s.applyReset).st = .waitStart := rfl
@[simp] theorem State.applyReset_esc : (s.applyReset).esc = false := rfl
@[simp] theorem State.applyReset_len : (s.applyReset).len = 0 := rfl
@[simp] theorem State.applyReset_rem : (s.applyReset).rem = 0 := rfl
@[simp] theorem State.applyReset_sum : (s.applyReset).sum = 0 := rfl
@[simp] theorem State.applyReset_buf : (s.applyReset).buf = [] := rfl
@[simp] theorem State.applyReset_maxLen : (s.applyReset).maxLen = s.maxLen := rfl
@[simp] theorem State.applyReset_event : (s.applyReset).event = none := rfl
@[simp] theorem State.applyReset_delivered : (s.applyReset).delivered = s.delivered := rfl
@[simp] theorem State.applyReset_input : (s.applyReset).input = s.input := rfl
@[simp] theorem State.applyReset_evReady : (s.applyReset).evReady = s.evReady := rfl
@[simp] theorem State.applyReset_result : (s.applyReset).result = .none := rfl

@[simp] theorem State.tick_st : (s.tick).st = s.st := rfl
@[simp] theorem State.tick_esc : (s.tick).esc = s.esc := rfl
@[simp] theorem State.tick_len : (s.tick).len = s.len := rfl
@[simp] theorem State.tick_rem : (s.tick).rem = s.rem := rfl
@[simp] theorem State.tick_sum : (s.tick).sum = s.sum := rfl
@[simp] theorem State.tick_buf : (s.tick).buf = s.buf := rfl
@[simp] theorem State.tick_maxLen : (s.tick).maxLen = s.maxLen := rfl
@[simp] theorem State.tick_event : (s.tick).event = s.event := rfl
@[simp] theorem State.tick_delivered : (s.tick).delivered = s.delivered := rfl
@[simp] theorem State.tick_input : (s.tick).input = s.input := rfl
@[simp] theorem State.tick_evReady : (s.tick).evReady = s.evReady.tail := rfl
@[simp] theorem State.tick_result : (s.tick).result = s.result := rfl

@[simp] theorem State.handOver_st : (s.handOver).st = s.st := rfl
@[simp] theorem State.handOver_esc : (s.handOver).esc = s.esc := rfl
@[simp] theorem State.handOver_len : (s.handOver).len = s.len := rfl
@[simp] theorem State.handOver_rem : (s.handOver).rem = s.rem := rfl
@[simp] theorem State.handOver_sum : (s.handOver).sum = s.sum := rfl
@[simp] theorem State.handOver_buf : (s.handOver).buf = s.buf := rfl
@[simp] theorem State.handOver_maxLen : (s.handOver).maxLen = s.maxLen := rfl
@[simp] theorem State.handOver_event : (s.handOver).event = none := rfl
@[simp] theorem State.handOver_delivered : (s.handOver).delivered = s.delivered ++ s.event.toList := rfl
@[simp] theorem State.handOver_input : (s.handOver).input = s.input := rfl
@[simp] theorem State.handOver_evReady : (s.handOver).evReady = s.evReady := rfl
@[simp] theorem State.handOver_result : (s.handOver).result = s.result := rfl

@[simp] theorem State.setEsc_st : (s.setEsc).st = s.st := rfl
@[simp] theorem State.setEsc_esc : (s.setEsc).esc = true := rfl
@[simp] theorem State.setEsc_len : (s.setEsc).len = s.len := rfl
@[simp] theorem State.setEsc_rem : (s.setEsc).rem = s.rem := rfl
@[simp] theorem State.setEsc_sum : (s.setEsc).sum = s.sum := rfl
@[simp] theorem State.setEsc_buf : (s.setEsc).buf = s.buf := rfl
@[simp] theorem State.setEsc_maxLen : (s.setEsc).maxLen = s.maxLen := rfl
@[simp] theorem State.setEsc_event : (s.setEsc).event = s.event := rfl
@[simp] theorem State.setEsc_delivered : (s.setEsc).delivered = s.delivered := rfl
@[simp] theorem State.setEsc_input : (s.setEsc).input = s.input := rfl
@[simp] theorem State.setEsc_evReady : (s.setEsc).evReady = s.evReady := rfl
@[simp] theorem State.setEsc_result : (s.setEsc).result = s.result := rfl

@[simp] theorem State.clearEsc_st : (s.clearEsc).st = s.st := rfl
@[simp] theorem State.clearEsc_esc : (s.clearEsc).esc = false := rfl
@[simp] theorem State.clearEsc_len : (s.clearEsc).len = s.len := rfl
@[simp] theorem State.clearEsc_rem : (s.clearEsc).rem = s.rem := rfl
@[simp] theorem State.clearEsc_sum : (s.clearEsc).sum = s.sum := rfl
@[simp] theorem State.clearEsc_buf : (s.clearEsc).buf = s.buf := rfl
@[simp] theorem State.clearEsc_maxLen : (s.clearEsc).maxLen = s.maxLen := rfl
@[simp] theorem State.clearEsc_event : (s.clearEsc).event = s.event := rfl
@[simp] theorem State.clearEsc_delivered : (s.clearEsc).delivered = s.delivered := rfl
@[simp] theorem State.clearEsc_input : (s.clearEsc).input = s.input := rfl
@[simp] theorem State.clearEsc_evReady : (s.clearEsc).evReady = s.evReady := rfl
@[simp] theorem State.clearEsc_result : (s.clearEsc).result = s.result := rfl

@[simp] theorem State.presenting_st (items : List Item) : (s.presenting items).st = s.st := rfl
@[simp] theorem State.presenting_esc (items : List Item) : (s.presenting items).esc = s.esc := rfl
@[simp] theorem State.presenting_len (items : List Item) : (s.presenting items).len = s.len := rfl
@[simp] theorem State.presenting_rem (items : List Item) : (s.presenting items).rem = s.rem := rfl
@[simp] theorem State.presenting_sum (items : List Item) : (s.presenting items).sum = s.sum := rfl
@[simp] theorem State.presenting_buf (items : List Item) : (s.presenting items).buf = s.buf := rfl
@[simp] theorem State.presenting_maxLen (items : List Item) : (s.presenting items).maxLen = s.maxLen := rfl
@[simp] theorem State.presenting_event (items : List Item) : (s.presenting items).event = s.event := rfl
@[simp] theorem State.presenting_delivered (items : List Item) : (s.presenting items).delivered = s.delivered := rfl
@[simp] theorem State.presenting_input (items : List Item) : (s.presenting items).input = s.input ++ items.map Pins.ofItem := rfl
@[simp] theorem State.presenting_evReady (items : List Item) : (s.presenting items).evReady = s.evReady := rfl
@[simp] theorem State.presenting_result (items : List Item) : (s.presenting items).result = s.result := rfl

@[simp] theorem State.raise_maxLen (e : ErrCode) : (s.raise e).maxLen = s.maxLen := by cases e <;> rfl
@[simp] theorem State.raise_event (e : ErrCode) : (s.raise e).event = some (.error e) := rfl
@[simp] theorem State.raise_delivered (e : ErrCode) : (s.raise e).delivered = s.delivered := by cases e <;> rfl
@[simp] theorem State.raise_input (e : ErrCode) : (s.raise e).input = s.input := by cases e <;> rfl
@[simp] theorem State.raise_evReady (e : ErrCode) : (s.raise e).evReady = s.evReady := by cases e <;> rfl
@[simp] theorem State.raise_result (e : ErrCode) : (s.raise e).result = s.result := by cases e <;> rfl

/-- The three frame errors recover to the idle state (60_exceptions R144). -/
theorem State.raise_frameError {e : ErrCode} (h : e ≠ .escapeSequenceError) :
    s.raise e = s.idleState.emit (.error e) := by
  cases e <;> first | rfl | exact absurd rfl h

/-- `EscapeSequenceError` keeps the frame in progress (60_exceptions R144). -/
theorem State.raise_escapeSequenceError :
    s.raise .escapeSequenceError = s.clearEsc.emit (.error .escapeSequenceError) := rfl

@[simp] theorem State.ctx_st : s.ctx.st = s.st := rfl
@[simp] theorem State.ctx_esc : s.ctx.esc = s.esc := rfl
@[simp] theorem State.ctx_len : s.ctx.len = s.len := rfl
@[simp] theorem State.ctx_rem : s.ctx.rem = s.rem := rfl
@[simp] theorem State.ctx_sum : s.ctx.sum = s.sum := rfl
@[simp] theorem State.ctx_maxLen : s.ctx.maxLen = s.maxLen := rfl

@[simp] theorem State.handOver_ctx : s.handOver.ctx = s.ctx := rfl
@[simp] theorem State.tick_ctx : s.tick.ctx = s.ctx := rfl
@[simp] theorem State.emit_ctx (e : Event) : (s.emit e).ctx = s.ctx := rfl
@[simp] theorem State.presenting_ctx (items : List Item) : (s.presenting items).ctx = s.ctx := rfl

/-- Everything output so far does not change when the waiting event goes to the consumer. -/
@[simp] theorem State.handOver_outputs : s.handOver.outputs = s.outputs := by
  simp [State.outputs]

@[simp] theorem State.tick_outputs : s.tick.outputs = s.outputs := rfl

end Updates

end Sys2Proof.Machine
end

