-- ==== Sys2Proof/Laws/Memory.lean ====
section
/-! SUPPORT. The frame buffer: read after write, the canonical form, and the buffer as a byte sequence. -/

namespace Sys2Proof.Machine

@[simp] theorem Memory.read_nil (a : Nat) : Memory.read [] a = none := rfl

theorem Memory.read_cons (b : Nat) (v : Byte) (m : Memory) (a : Nat) :
    Memory.read ((b, v) :: m) a = if a = b then some v else Memory.read m a := rfl

/-- A read of the cell just written gives the byte written. -/
@[simp] theorem Memory.read_write_same (m : Memory) (a : Nat) (v : Byte) : (m.write a v).read a = some v := by
  induction m with
  | nil => simp [Memory.write, Memory.read]
  | cons c m ih =>
    obtain ⟨b, w⟩ := c
    simp only [Memory.write]
    split
    · simp [Memory.read]
    · split
      · simp [Memory.read]
      · rename_i h
        simp [Memory.read, h, ih]

/-- A write leaves every other cell alone. -/
theorem Memory.read_write_other (m : Memory) {a a' : Nat} (v : Byte) (h : a' ≠ a) :
    (m.write a v).read a' = m.read a' := by
  induction m with
  | nil => simp [Memory.write, Memory.read, h]
  | cons c m ih =>
    obtain ⟨b, w⟩ := c
    simp only [Memory.write]
    split
    · simp [Memory.read, h]
    · split
      · rename_i hab
        subst hab
        simp [Memory.read, h]
      · simp only [Memory.read, ih]

/-- Every cell of a canonical buffer lies above its first. -/
theorem Memory.wf_cons {a : Nat} {v : Byte} {m : Memory} :
    Memory.wf ((a, v) :: m) = true ↔ (∀ c ∈ m.head?, a < c.1) ∧ m.wf = true := by
  cases m with
  | nil => simp [Memory.wf]
  | cons c m =>
    obtain ⟨b, w⟩ := c
    simp [Memory.wf]

/-- A write keeps the canonical form (20_memory R31). -/
theorem Memory.write_wf (m : Memory) (a : Nat) (v : Byte) (h : m.wf = true) : (m.write a v).wf = true := by
  induction m with
  | nil => rfl
  | cons c m ih =>
    obtain ⟨b, w⟩ := c
    rw [Memory.wf_cons] at h
    simp only [Memory.write]
    split
    · rename_i hab
      rw [Memory.wf_cons, Memory.wf_cons]
      exact ⟨by simpa using hab, h⟩
    · split
      · rename_i hab
        subst hab
        exact Memory.wf_cons.2 h
      · rename_i h1 h2
        rw [Memory.wf_cons]
        refine ⟨?_, ih h.2⟩
        cases m with
        | nil => simp [Memory.write]; omega
        | cons c' m =>
          obtain ⟨b', w'⟩ := c'
          have := h.1 (b', w') (by simp)
          simp only [Memory.write]
          split
          · simp; omega
          · split <;> simp <;> omega

/-- A write above every listed cell appends. -/
theorem Memory.write_above (m : Memory) (a : Nat) (v : Byte) (h : ∀ c ∈ m, c.1 < a) :
    m.write a v = m ++ [(a, v)] := by
  induction m with
  | nil => rfl
  | cons c m ih =>
    obtain ⟨b, w⟩ := c
    have hb : b < a := h (b, w) (by simp)
    simp only [Memory.write, if_neg (Nat.lt_asymm hb), if_neg (Nat.ne_of_gt hb), List.cons_append]
    rw [ih fun c hc => h c (List.mem_cons_of_mem _ hc)]

theorem Memory.contiguous_below {m : Memory} (h : m.contiguous) : ∀ c ∈ m, c.1 < m.length := by
  intro c hc
  have : c.1 ∈ m.map Prod.fst := List.mem_map_of_mem hc
  rw [h] at this
  exact List.mem_range.1 this

/-- The append of 00_scope section 5 on a buffer whose cells are in place. -/
theorem Memory.write_length {m : Memory} (h : m.contiguous) (v : Byte) :
    m.write m.length v = m ++ [(m.length, v)] :=
  Memory.write_above m _ v (Memory.contiguous_below h)

theorem Memory.contiguous_append {m : Memory} (h : m.contiguous) (v : Byte) :
    Memory.contiguous (m ++ [(m.length, v)]) := by
  simp only [Memory.contiguous] at *
  simp [h, List.range_succ]

@[simp] theorem Memory.bytes_append (m : Memory) (a : Nat) (v : Byte) :
    Memory.bytes (m ++ [(a, v)]) = m.bytes ++ [v] := by
  simp [Memory.bytes]

@[simp] theorem Memory.bytes_nil : Memory.bytes [] = [] := rfl

@[simp] theorem Memory.bytes_length (m : Memory) : m.bytes.length = m.length := by
  simp [Memory.bytes]

theorem Memory.contiguous_wf {m : Memory} (h : m.contiguous) : m.wf = true := by
  have key : ∀ (m : Memory), (m.map Prod.fst).Pairwise (· < ·) → m.wf = true := by
    intro m
    induction m with
    | nil => intro _; rfl
    | cons c m ih =>
      obtain ⟨a, v⟩ := c
      intro hp
      rw [List.map_cons, List.pairwise_cons] at hp
      refine Memory.wf_cons.2 ⟨?_, ih hp.2⟩
      intro c hc
      exact hp.1 c.1 (List.mem_map_of_mem (List.mem_of_mem_head? hc))
  exact key m (by rw [h]; exact List.pairwise_lt_range)

/-- Where the cells `k, k + 1, …` of a buffer are listed in order, a read gives the byte at its index. -/
theorem Memory.read_run (m : Memory) (k a : Nat) (h : m.map Prod.fst = List.range' k m.length) (ha : k ≤ a) :
    m.read a = m.bytes[a - k]? := by
  induction m generalizing k with
  | nil => simp [Memory.bytes, Memory.read]
  | cons c m ih =>
    obtain ⟨b, v⟩ := c
    simp only [List.map_cons, List.length_cons, List.range'_succ, List.cons.injEq] at h
    obtain ⟨rfl, h⟩ := h
    rw [Memory.read_cons]
    split
    · rename_i hab
      subst hab
      simp [Memory.bytes]
    · rename_i hab
      rw [ih (b + 1) h (by omega)]
      have : a - b = (a - (b + 1)) + 1 := by omega
      rw [this]
      simp [Memory.bytes]

/-- A read of a buffer whose cells are in place is an index into its byte sequence. -/
theorem Memory.read_contiguous {m : Memory} (h : m.contiguous) (a : Nat) : m.read a = m.bytes[a]? := by
  have h' : m.map Prod.fst = List.range' 0 m.length := by rw [h, List.range_eq_range']
  simpa using Memory.read_run m 0 a h' (Nat.zero_le a)

/-- The read at completion (20_memory R32): the bytes from `a` on, where they are written and exist. -/
theorem memRead_contiguous (s : State) (h : s.buf.contiguous) (a n : Nat) (hn : a + n ≤ s.buf.length)
    (hm : a + n ≤ s.maxLen.value + 1) : memRead s a n = .ok ((s.buf.bytes.drop a).take n) := by
  induction n generalizing a with
  | zero => simp [memRead]
  | succ n ih =>
    have hlt : a < s.buf.bytes.length := by simp; omega
    have hr : s.buf.read a = some s.buf.bytes[a] := by
      rw [Memory.read_contiguous h, List.getElem?_eq_getElem hlt]
    simp only [memRead, hr, ih (a + 1) (by omega) (by omega)]
    rw [if_pos (by omega), List.drop_eq_getElem_cons hlt, List.take_succ_cons]

/-- A read that answers gives the bytes of the cells it reads, one each. -/
theorem memRead_ok {s : State} {a n : Nat} {bs : List Byte} (h : memRead s a n = .ok bs) : bs.length = n := by
  induction n generalizing a bs with
  | zero => simp [memRead] at h; simp [← h]
  | succ n ih =>
    simp only [memRead] at h
    split at h
    · split at h
      · split at h
        · rename_i hr
          cases h
          simp [ih hr]
        · cases h
      · cases h
    · cases h

end Sys2Proof.Machine
end

