-- ==== Sys2Proof/Laws/Ops.lean ====
section
/-! SUPPORT. What each shared operation can do, said once. -/

namespace Sys2Proof.Machine

@[simp] theorem andThen_next (s : State) (k : State → Res) : andThen (.next s) k = k s := rfl
@[simp] theorem andThen_fault (f : Fault) (k : State → Res) : andThen (.fault f) k = .fault f := rfl
@[simp] theorem andThen_refused (q : Refusal) (k : State → Res) : andThen (.refused q) k = .refused q := rfl

theorem andThen_eq_next {r : Res} {k : State → Res} {t : State} :
    andThen r k = .next t ↔ ∃ s, r = .next s ∧ k s = .next t := by
  cases r <;> simp [andThen]

theorem andThen_assoc (r : Res) (j k : State → Res) :
    andThen (andThen r j) k = andThen r fun s => andThen (j s) k := by
  cases r <;> rfl

theorem whenApplies_pos {i : Instr} {s : State} (h : i.applies s.ctx = true) (k : Res) :
    whenApplies i s k = k := by
  simp [whenApplies, h]

theorem whenApplies_neg {i : Instr} {s : State} (h : i.applies s.ctx = false) (k : Res) :
    whenApplies i s k = .refused .ruleDoesNotApply := by
  simp [whenApplies, h]

/-- A meaning that answers a next state was executed where its rule applies. -/
theorem whenApplies_eq_next {i : Instr} {s t : State} {k : Res} :
    whenApplies i s k = .next t ↔ i.applies s.ctx = true ∧ k = .next t := by
  unfold whenApplies
  split <;> simp_all

/-- The append answers the buffer with the byte at index `|buf|`, inside the buffer only (20_memory R31). -/
theorem appendByte_eq_next {v : Byte} {s t : State} :
    appendByte v s = .next t ↔
      s.buf.length ≤ s.maxLen.value ∧ t = { s with buf := s.buf.write s.buf.length v } := by
  unfold appendByte memWrite
  split <;> simp_all [eq_comm]

/-- The fetch answers the decoded item and the state without it, with the waiting event handed over. -/
theorem fetch_eq_some {s : State} {i : Instr} {u : State} :
    fetch s = some (i, u) ↔
      s.inReady = true ∧ i = decodeItem s.ctx (s.takeItem).1 ∧ u = (s.handOver.tick.takeItem).2 := by
  unfold fetch
  have h1 : (s.handOver.tick.takeItem).2.ctx = s.ctx := by
    unfold State.takeItem
    split <;> rfl
  have h2 : (s.handOver.tick.takeItem).1 = (s.takeItem).1 := by
    unfold State.takeItem
    simp only [State.tick_input, State.handOver_input]
    split <;> rfl
  split
  · simp only [*, Option.some.injEq, Prod.mk.injEq, true_and, eq_comm]
  · simp [*]

theorem fetch_eq_none {s : State} : fetch s = none ↔ s.inReady = false := by
  unfold fetch
  split <;> simp_all

/-- What a step can do: run the decoded item, or wait for the consumer. -/
theorem step_eq_next {s t : State} (h : step s = .next t) :
    (∃ i u, fetch s = some (i, u) ∧ exec i u = .next t) ∨ (s.inReady = false ∧ t = s.tick) := by
  unfold step at h
  split at h
  · exact .inl ⟨_, _, ‹_›, h⟩
  · exact .inr ⟨fetch_eq_none.1 ‹_›, by simpa using h.symm⟩

/-- The fetched state differs from the state in the ports only. -/
theorem takeItem_registers (s : State) :
    (s.takeItem).2 = { s with input := (s.takeItem).2.input } := by
  unfold State.takeItem
  split <;> rfl

end Sys2Proof.Machine
end

