-- ==== Sys2Proof/Laws/Decode.lean ====
section
/-! SUPPORT. The decoders select an instruction only where its rule applies. -/

namespace Sys2Proof.Machine

/-- The class R56 gives a raw byte applies in the state it was read in. -/
theorem decodeRaw_applies (c : Ctx) (b : Byte) : (decodeRaw c b).applies c = true := by
  unfold decodeRaw
  by_cases hf : c.inFrame = true
  · simp only [hf, if_true]
    split
    · simp [Instr.applies, hf]
    · rename_i hb
      cases he : c.esc <;> simp [Instr.applies, hf, he, hb]
  · have hst : c.st = .waitStart := by simpa [Ctx.inFrame] using hf
    rw [if_neg hf]
    split
    · simp [Instr.applies, hst]
    · rename_i hb
      simp [Instr.applies, hst, hb]

theorem decodeItem_applies (c : Ctx) (it : Item) : (decodeItem c it).applies c = true := by
  cases it with
  | byte b => exact decodeRaw_applies c b
  | eos => rfl
  | reset => rfl
  | none => rfl

/-- The reassembler's transition for a logical byte applies. -/
theorem decodeLogical_applies {c : Ctx} {v : Byte} {i : Instr} (h : decodeLogical c v = .ok i) :
    i.applies c = true := by
  unfold decodeLogical at h
  split at h
  · cases h
  · rename_i hst; cases h; simp [Instr.applies, hst]
  · rename_i hst
    cases h
    split <;> simp_all [Instr.applies]
  · rename_i hst
    cases h
    split <;> simp_all [Instr.applies, Ctx.atLast]

/-- The reassembler runs the instruction that the logical byte decodes to. -/
theorem deliver_eq_exec {v : Byte} {s : State} {i : Instr} (h : decodeLogical s.ctx v = .ok i) :
    deliver v s = exec i s := by
  unfold deliver
  cases hst : s.st <;> simp only [decodeLogical, State.ctx_st, hst] at h
  · cases h
  · cases h
    rfl
  · cases h
    simp only [apply_ite (exec · s)]
    rfl
  · cases h
    simp only [apply_ite (exec · s)]
    rfl

/-- In a frame every logical byte has its transition. -/
theorem decodeLogical_inFrame {c : Ctx} (h : c.inFrame = true) (v : Byte) : ∃ i, decodeLogical c v = .ok i := by
  unfold decodeLogical
  cases hst : c.st <;> simp_all [Ctx.inFrame]

end Sys2Proof.Machine
end

