-- ==== Sys2Proof/Laws/Conditions.lean ====
section
/-! SUPPORT. The condition of each rule and of `idle` and `in_ready` as a proposition about the state, and the
spec's literals under the names the definitions use. -/

namespace Sys2Proof.Machine

theorem Ctx.inFrame_iff {c : Ctx} : c.inFrame = true ↔ c.st ≠ .waitStart := by simp [Ctx.inFrame]

theorem Ctx.lengthFits_iff {c : Ctx} {v : Byte} :
    c.lengthFits v = true ↔ (withLowLength c.len v).toNat ≤ c.maxLen.value := decide_eq_true_iff

theorem Ctx.moreToCome_iff {c : Ctx} : c.moreToCome = true ↔ 1 < c.rem.toNat := decide_eq_true_iff

theorem Ctx.sumMatches_iff {c : Ctx} {v : Byte} : c.sumMatches v = true ↔ v = Config.ckBase - c.sum :=
  decide_eq_true_iff

theorem Ctx.atLast_iff {c : Ctx} : c.atLast = true ↔ c.st = .readBody ∧ ¬ 1 < c.rem.toNat := by
  rw [← Ctx.moreToCome_iff]
  simp [Ctx.atLast]

variable {c : Ctx} {b v : Byte}

theorem applies_wsStart : Instr.applies c .wsStart = true ↔ c.st = .waitStart := decide_eq_true_iff

theorem applies_wsSkip : Instr.applies c (.wsSkip b) = true ↔ c.st = .waitStart ∧ b ≠ Config.start := by
  simp only [Instr.applies, Bool.and_eq_true, decide_eq_true_eq]

theorem applies_unBypass : Instr.applies c (.unBypass b) = true ↔ c.st = .waitStart := decide_eq_true_iff

theorem applies_unEsc : Instr.applies c .unEsc = true ↔ c.st ≠ .waitStart := Ctx.inFrame_iff

theorem applies_unXor :
    Instr.applies c (.unXor b) = true ↔ c.st ≠ .waitStart ∧ c.esc = true ∧ b ≠ Config.escMark := by
  simp only [Instr.applies, Bool.and_eq_true, Ctx.inFrame_iff, decide_eq_true_eq, and_assoc]

theorem applies_unPass :
    Instr.applies c (.unPass b) = true ↔ c.st ≠ .waitStart ∧ c.esc = false ∧ b ≠ Config.escMark := by
  simp only [Instr.applies, Bool.and_eq_true, Ctx.inFrame_iff, decide_eq_true_eq, and_assoc, Bool.not_eq_true']

theorem applies_escPairAny :
    Instr.applies c (.escPairAny b) = true ↔ c.st ≠ .waitStart ∧ b ≠ Config.escMark := by
  simp only [Instr.applies, Bool.and_eq_true, Ctx.inFrame_iff, decide_eq_true_eq]

theorem applies_rlhByte : Instr.applies c (.rlhByte v) = true ↔ c.st = .readLengthHigh := decide_eq_true_iff

theorem applies_rllAccept : Instr.applies c (.rllAccept v) = true ↔
    c.st = .readLengthLow ∧ (withLowLength c.len v).toNat ≤ c.maxLen.value := by
  simp only [Instr.applies, Bool.and_eq_true, Ctx.lengthFits_iff, decide_eq_true_eq]

theorem applies_rllTooLarge : Instr.applies c (.rllTooLarge v) = true ↔
    c.st = .readLengthLow ∧ c.maxLen.value < (withLowLength c.len v).toNat := by
  rw [← Nat.not_le, ← Ctx.lengthFits_iff]
  simp [Instr.applies]

theorem applies_rbStore : Instr.applies c (.rbStore v) = true ↔ c.st = .readBody ∧ 1 < c.rem.toNat := by
  simp only [Instr.applies, Bool.and_eq_true, Ctx.moreToCome_iff, decide_eq_true_eq]

theorem applies_rbLast : Instr.applies c (.rbLast v) = true ↔ c.st = .readBody ∧ ¬ 1 < c.rem.toNat := Ctx.atLast_iff

theorem applies_doneOk : Instr.applies c (.doneOk v) = true ↔
    (c.st = .readBody ∧ ¬ 1 < c.rem.toNat) ∧ v = Config.ckBase - c.sum ∧ c.len ≠ 0 := by
  simp only [Instr.applies, Bool.and_eq_true, Ctx.atLast_iff, Ctx.sumMatches_iff, decide_eq_true_eq, and_assoc]

theorem applies_doneBadCk : Instr.applies c (.doneBadCk v) = true ↔
    (c.st = .readBody ∧ ¬ 1 < c.rem.toNat) ∧ v ≠ Config.ckBase - c.sum := by
  simp only [Instr.applies, Bool.and_eq_true, Ctx.atLast_iff, Bool.not_eq_true', ← Bool.not_eq_true,
    Ctx.sumMatches_iff, ne_eq]

theorem applies_doneEmpty : Instr.applies c (.doneEmpty v) = true ↔
    (c.st = .readBody ∧ ¬ 1 < c.rem.toNat) ∧ v = Config.ckBase - c.sum ∧ c.len = 0 := by
  simp only [Instr.applies, Bool.and_eq_true, Ctx.atLast_iff, Ctx.sumMatches_iff, decide_eq_true_eq, and_assoc]

theorem applies_frame {len : Half} {span : List Byte} : Instr.applies c (.frame len span) = true ↔
    c.st = .waitStart ∧ span.length = len.toNat + 1 := by
  simp only [Instr.applies, Bool.and_eq_true, decide_eq_true_eq]

theorem applies_typeUnknown {body : List Byte} : Instr.applies c (.typeUnknown b body) = true ↔
    b ≠ Config.tReceive ∧ b ≠ Config.tTxStatus ∧ b ≠ Config.tAtResp ∧ b ≠ Config.tRAtResp := by
  simp only [Instr.applies, Bool.and_eq_true, decide_eq_true_eq, and_assoc]

/-! The output ports (10_state R10, R18). -/

theorem State.idle_iff {s : State} : s.idle = true ↔ s.st = .waitStart := decide_eq_true_iff

theorem State.inReady_eq_false_iff {s : State} :
    s.inReady = false ↔ s.event.isSome = true ∧ s.evReady.head? = some false := by
  cases he : s.event <;> cases hr : s.evReady <;> simp [State.inReady, State.readyNow, he, hr]

/-! Literals of the spec. -/

theorem start_lit : (0x7E : Byte) = Config.start := rfl
theorem escMark_lit : (0x7D : Byte) = Config.escMark := rfl
theorem ckBase_lit : (0xFF : Byte) = Config.ckBase := rfl
theorem xorMask_lit (b : Byte) : b ^^^ 0x20 = xorMask b := rfl

/-- XOR with 0x20 twice gives the byte back (30_encoding R53, R54). -/
@[simp] theorem xorMask_xorMask (b : Byte) : xorMask (xorMask b) = b := by
  simp [xorMask]

end Sys2Proof.Machine
end

