-- ==== Sys2Proof/Laws/Run.lean ====
section
/-! SUPPORT. Runs of many steps, one item at a time, and the sums of byte sequences. -/

namespace Sys2Proof.Machine

@[simp] theorem runSteps_zero (s : State) : runSteps 0 s = .next s := rfl

/-- A run of `n + 1` steps is a step and a run of `n`. -/
theorem runSteps_succ (n : Nat) (s : State) : runSteps (n + 1) s = andThen (step s) (runSteps n) := rfl

@[simp] theorem runSteps_one (s : State) : runSteps 1 s = step s := by
  rw [runSteps_succ]
  cases step s <;> rfl

/-- A run of `m + n` steps is a run of `m` and then one of `n`. -/
theorem runSteps_add (m n : Nat) (s : State) : runSteps (m + n) s = andThen (runSteps m s) (runSteps n) := by
  induction m generalizing s with
  | zero => rw [Nat.zero_add]; rfl
  | succ m ih =>
    rw [Nat.add_right_comm, runSteps_succ, runSteps_succ, andThen_assoc]
    exact congrArg (andThen (step s)) (funext ih)

/-- The steps are those the host runs. -/
theorem runSteps_eq_run (n : Nat) (s : State) : runSteps n s = Host.Core.run Sys2Proof.core n s := by
  induction n generalizing s with
  | zero => rfl
  | succ n ih =>
    rw [runSteps_succ]
    refine Eq.trans ?_ (Host.Core.run.eq_2 Sys2Proof.core s n).symm
    cases h : step s with
    | next t =>
      have h' : Host.Core.step Sys2Proof.core s = .next t := h
      rw [h']
      exact ih t
    | fault f =>
      have h' : Host.Core.step Sys2Proof.core s = .fault f := h
      rw [h']
      rfl
    | refused q =>
      have h' : Host.Core.step Sys2Proof.core s = .refused q := h
      rw [h']
      rfl

@[simp] theorem Pins.ofItem_item (it : Item) : (Pins.ofItem it).item = it := by cases it <;> rfl

@[simp] theorem Pins.ofItem_rest (it : Item) : (Pins.ofItem it).rest = none := by cases it <;> rfl

/-- A step on a presented item, the consumer being ready. -/
theorem step_presented {s : State} {it : Item} {ps : List Pins} (hr : s.evReady = [])
    (hi : s.input = Pins.ofItem it :: ps) :
    step s = exec (decodeItem s.ctx it)
      { s with delivered := s.delivered ++ s.event.toList, event := none, input := ps } := by
  have hready : s.inReady = true := by simp [State.inReady, State.readyNow, hr]
  simp only [step, fetch, hready, if_true, State.takeItem, State.tick_input, State.handOver_input, hi,
    Pins.ofItem_item, Pins.ofItem_rest]
  simp [State.handOver, State.tick, State.ctx, hr]

/-! ### Sums -/

theorem sumBytes_append (xs ys : List Byte) : sumBytes (xs ++ ys) = sumBytes xs + sumBytes ys := by
  induction xs with
  | nil => simp [sumBytes]
  | cons x xs ih => simp [sumBytes, ih, Nat.add_assoc]

/-- The exact sum of 00_scope section 5. -/
theorem sumBytes_eq_sum (bs : List Byte) : sumBytes bs = (bs.map BitVec.toNat).sum := by
  induction bs with
  | nil => rfl
  | cons b bs ih => simp [sumBytes, ih]

@[simp] theorem sumMod_nil : sumMod [] = 0 := rfl

/-- CK_ADD on the accumulator follows the sum of the sequence (40_checksum R75). -/
theorem sumMod_append_singleton (bs : List Byte) (v : Byte) : sumMod (bs ++ [v]) = sumMod bs + v := by
  apply BitVec.eq_of_toNat_eq
  simp [sumMod, sumBytes_append, sumBytes]

theorem ck_toNat (bs : List Byte) : (ck bs).toNat = 255 - sumBytes bs % 256 := by
  have h : Config.ckBase.toNat = 255 := rfl
  simp only [ck, sumMod, BitVec.toNat_sub, BitVec.toNat_ofNat, h]
  omega

end Sys2Proof.Machine
end

