-- ==== Sys2Proof/Laws/Deliver.lean ====
section
/-! SUPPORT. The delivery of one logical byte to the reassembler, said once: every way it can end, and the equation of
each way (42_reassembler R92 to R99); the raw pair; the two length bytes; the stuffed sequence. -/

namespace Sys2Proof.Machine

/-! ### What a completion can do -/

theorem doneOk_eq_next {c : Byte} {s t : State} (h : execDoneOk c s = .next t) :
    s.st = .readBody ∧ ¬ 1 < s.rem.toNat ∧ c = Config.ckBase - s.sum ∧
      ∃ ty body, memRead s 0 s.len.toNat = .ok (ty :: body) ∧
        t = s.idleState.emit (.packet (packetOf ty body c)) := by
  obtain ⟨ha, h⟩ := whenApplies_eq_next.1 h
  obtain ⟨⟨h1, h2⟩, h3, -⟩ := applies_doneOk.1 ha
  refine ⟨h1, h2, h3, ?_⟩
  split at h
  · cases h
    exact ⟨_, _, ‹_›, rfl⟩
  · cases h
  · cases h

theorem rbLast_eq_next {c : Byte} {s t : State} (h : execRbLast c s = .next t) :
    s.st = .readBody ∧ ¬ 1 < s.rem.toNat ∧
      (t = s.raise .checksumError ∨ t = s.raise .emptyFrame ∨ execDoneOk c s = .next t) := by
  obtain ⟨ha, h⟩ := whenApplies_eq_next.1 h
  refine ⟨(applies_rbLast.1 ha).1, (applies_rbLast.1 ha).2, ?_⟩
  split at h
  · obtain ⟨-, h⟩ := whenApplies_eq_next.1 h
    cases h
    exact .inl rfl
  · split at h
    · obtain ⟨-, h⟩ := whenApplies_eq_next.1 h
      cases h
      exact .inr (.inl rfl)
    · exact .inr (.inr h)

theorem rbStore_eq_next {v : Byte} {s t : State} (h : execRbStore v s = .next t) :
    s.st = .readBody ∧ 1 < s.rem.toNat ∧ s.buf.length ≤ s.maxLen.value ∧
      t = { s with buf := s.buf.write s.buf.length v, sum := s.sum + v, rem := s.rem - 1 } := by
  obtain ⟨ha, h⟩ := whenApplies_eq_next.1 h
  obtain ⟨u, hu, h⟩ := andThen_eq_next.1 h
  obtain ⟨h1, rfl⟩ := appendByte_eq_next.1 hu
  cases h
  exact ⟨(applies_rbStore.1 ha).1, (applies_rbStore.1 ha).2, h1, rfl⟩

/-! ### What a delivery can do -/

/-- The ways a delivery can end, each with what it needs and the state it leaves. -/
inductive Delivered (v : Byte) (s t : State) : Prop
  /-- R92. -/
  | lengthHigh (hst : s.st = .readLengthHigh) (ht : t = { s with len := highLength v, st := .readLengthLow })
  /-- R93. -/
  | accepted (hst : s.st = .readLengthLow) (hL : (withLowLength s.len v).toNat ≤ s.maxLen.value)
      (ht : t = { s with len := withLowLength s.len v, rem := withLowLength s.len v + 1, sum := 0, buf := [],
                         st := .readBody })
  /-- R94. -/
  | tooLarge (hst : s.st = .readLengthLow) (hL : s.maxLen.value < (withLowLength s.len v).toNat)
      (ht : t = s.raise .frameTooLarge)
  /-- R95. -/
  | stored (hst : s.st = .readBody) (hr : 1 < s.rem.toNat) (hb : s.buf.length ≤ s.maxLen.value)
      (ht : t = { s with buf := s.buf.write s.buf.length v, sum := s.sum + v, rem := s.rem - 1 })
  /-- R98. -/
  | corrupt (hst : s.st = .readBody) (hr : ¬ 1 < s.rem.toNat) (ht : t = s.raise .checksumError)
  /-- R99. -/
  | empty (hst : s.st = .readBody) (hr : ¬ 1 < s.rem.toNat) (ht : t = s.raise .emptyFrame)
  /-- R97. -/
  | packet (hst : s.st = .readBody) (hr : ¬ 1 < s.rem.toNat) (hc : v = Config.ckBase - s.sum) (ty : Byte)
      (body : List Byte) (hm : memRead s 0 s.len.toNat = .ok (ty :: body))
      (ht : t = s.idleState.emit (.packet (packetOf ty body v)))

theorem rlhByte_delivered {v : Byte} {s t : State} (h : execRlhByte v s = .next t) : Delivered v s t := by
  obtain ⟨ha, h⟩ := whenApplies_eq_next.1 h
  cases h
  exact .lengthHigh (applies_rlhByte.1 ha) rfl

theorem rllAccept_delivered {v : Byte} {s t : State} (h : execRllAccept v s = .next t) : Delivered v s t := by
  obtain ⟨ha, h⟩ := whenApplies_eq_next.1 h
  cases h
  exact .accepted (applies_rllAccept.1 ha).1 (applies_rllAccept.1 ha).2 rfl

theorem rllTooLarge_delivered {v : Byte} {s t : State} (h : execRllTooLarge v s = .next t) : Delivered v s t := by
  obtain ⟨ha, h⟩ := whenApplies_eq_next.1 h
  cases h
  exact .tooLarge (applies_rllTooLarge.1 ha).1 (applies_rllTooLarge.1 ha).2 rfl

theorem rbStore_delivered {v : Byte} {s t : State} (h : execRbStore v s = .next t) : Delivered v s t := by
  obtain ⟨h1, h2, h3, h4⟩ := rbStore_eq_next h
  exact .stored h1 h2 h3 h4

theorem rbLast_delivered {v : Byte} {s t : State} (h : execRbLast v s = .next t) : Delivered v s t := by
  obtain ⟨h1, h2, h | h | h⟩ := rbLast_eq_next h
  · exact .corrupt h1 h2 h
  · exact .empty h1 h2 h
  · obtain ⟨-, -, h3, ty, body, h4, h5⟩ := doneOk_eq_next h
    exact .packet h1 h2 h3 ty body h4 h5

/-- Everything a delivery that answers a next state can do. -/
theorem deliver_delivered {v : Byte} {s t : State} (h : deliver v s = .next t) : Delivered v s t := by
  unfold deliver at h
  split at h
  · cases h
  · exact rlhByte_delivered h
  · split at h
    · exact rllAccept_delivered h
    · exact rllTooLarge_delivered h
  · split at h
    · exact rbStore_delivered h
    · exact rbLast_delivered h

/-- A delivery leaves the environment's side and the output wires alone. -/
theorem Delivered.environment {v : Byte} {s t : State} (h : Delivered v s t) :
    t.maxLen = s.maxLen ∧ t.delivered = s.delivered ∧ t.input = s.input ∧ t.evReady = s.evReady ∧
      t.result = s.result := by
  cases h <;> (rename_i ht; subst ht; exact ⟨rfl, rfl, rfl, rfl, rfl⟩)

/-- A delivery ends in the idle state with an event, or goes on in the frame without one. -/
theorem Delivered.event {v : Byte} {s t : State} (h : Delivered v s t) :
    (t.st ≠ .waitStart ∧ t.event = s.event ∧ t.esc = s.esc) ∨
      ∃ e, e ≠ .error .escapeSequenceError ∧ t = s.idleState.emit e := by
  cases h <;> (rename_i ht; subst ht)
  case lengthHigh => exact .inl ⟨by simp, rfl, rfl⟩
  case accepted => exact .inl ⟨by simp, rfl, rfl⟩
  case stored hst _ _ => exact .inl ⟨by simp [hst], rfl, rfl⟩
  all_goals exact .inr ⟨_, by simp, rfl⟩

/-- In `WaitStart` nothing is delivered. -/
theorem inFrame_of_deliver {v : Byte} {s t : State} (h : deliver v s = .next t) : s.st ≠ .waitStart := by
  intro hw
  simp [deliver, hw] at h

/-! ### The equation of each way -/

theorem deliver_lengthHigh {s : State} {v : Byte} (h : s.st = .readLengthHigh) :
    deliver v s = .next { s with len := highLength v, st := .readLengthLow } := by
  simp only [deliver, h, execRlhByte, whenApplies_pos (applies_rlhByte.2 h)]

theorem deliver_accepted {s : State} {v : Byte} (h : s.st = .readLengthLow)
    (hL : (withLowLength s.len v).toNat ≤ s.maxLen.value) :
    deliver v s = .next { s with len := withLowLength s.len v, rem := withLowLength s.len v + 1, sum := 0, buf := [],
                                 st := .readBody } := by
  have hf : s.ctx.lengthFits v = true := Ctx.lengthFits_iff.2 hL
  simp only [deliver, h, hf, if_true, execRllAccept, whenApplies_pos (applies_rllAccept.2 ⟨h, hL⟩)]

theorem deliver_tooLarge {s : State} {v : Byte} (h : s.st = .readLengthLow)
    (hL : s.maxLen.value < (withLowLength s.len v).toNat) : deliver v s = .next (s.raise .frameTooLarge) := by
  have hf : ¬ s.ctx.lengthFits v = true := fun g => absurd (Ctx.lengthFits_iff.1 g) (Nat.not_le.2 hL)
  simp only [deliver, h, if_neg hf, execRllTooLarge, whenApplies_pos (applies_rllTooLarge.2 ⟨h, hL⟩)]

theorem deliver_stored {s : State} {v : Byte} (h : s.st = .readBody) (hr : 1 < s.rem.toNat)
    (hb : s.buf.length ≤ s.maxLen.value) :
    deliver v s = .next { s with buf := s.buf.write s.buf.length v, sum := s.sum + v, rem := s.rem - 1 } := by
  have hm : s.ctx.moreToCome = true := Ctx.moreToCome_iff.2 hr
  simp only [deliver, h, hm, if_true, execRbStore, whenApplies_pos (applies_rbStore.2 ⟨h, hr⟩)]
  rw [appendByte_eq_next.2 ⟨hb, rfl⟩]
  simp only [andThen_next, h]

theorem deliver_last {s : State} {v : Byte} (h : s.st = .readBody) (hr : ¬ 1 < s.rem.toNat) :
    deliver v s = execRbLast v s := by
  have hm : ¬ s.ctx.moreToCome = true := fun g => hr (Ctx.moreToCome_iff.1 g)
  simp only [deliver, h, if_neg hm]

theorem deliverAll_append (xs ys : List Byte) (s : State) :
    deliverAll (xs ++ ys) s = andThen (deliverAll xs s) (deliverAll ys) := by
  induction xs generalizing s with
  | nil => rfl
  | cons x xs ih =>
    simp only [List.cons_append, deliverAll, andThen_assoc]
    exact congrArg (andThen (deliver x s)) (funext ih)

/-- A raw pair in a frame is the one logical byte it stands for (41_unstuffer R80, R81). -/
theorem escapedPair_eq {s : State} {b : Byte} (hf : s.st ≠ .waitStart) (hb : b ≠ Config.escMark) :
    escapedPair b s = deliver (xorMask b) s.clearEsc := by
  have h1 : Instr.applies s.ctx .unEsc = true := applies_unEsc.2 hf
  have h2 : Instr.applies s.setEsc.ctx (.unXor b) = true := applies_unXor.2 ⟨hf, rfl, hb⟩
  simp only [escapedPair, execUnEsc, whenApplies_pos h1, andThen_next, execUnXor, whenApplies_pos h2]
  rfl

theorem escapedPair_delivered {b : Byte} {s t : State} (h : escapedPair b s = .next t) :
    s.st ≠ .waitStart ∧ Delivered (xorMask b) s.clearEsc t := by
  obtain ⟨u, hu, h⟩ := andThen_eq_next.1 h
  obtain ⟨ha, hu⟩ := whenApplies_eq_next.1 hu
  cases hu
  obtain ⟨-, h⟩ := whenApplies_eq_next.1 h
  exact ⟨applies_unEsc.1 ha, deliver_delivered h⟩

/-! ### The two length bytes and the counter -/

@[simp] theorem assembleLength_bytes (L : Half) : assembleLength (lengthHi L) (lengthLo L) = L := by
  ext i hi
  simp [assembleLength, withLowLength, highLength, lengthHi, lengthLo]
  grind

@[simp] theorem lengthHi_assemble (a b : Byte) : lengthHi (assembleLength a b) = a := by
  ext i hi
  simp [assembleLength, withLowLength, highLength, lengthHi]
  grind

@[simp] theorem lengthLo_assemble (a b : Byte) : lengthLo (assembleLength a b) = b := by
  ext i hi
  simp [assembleLength, withLowLength, highLength, lengthLo]

theorem length_toNat (L : Half) : 256 * (lengthHi L).toNat + (lengthLo L).toNat = L.toNat := by
  have := L.isLt
  simp [lengthHi, lengthLo, Nat.shiftRight_eq_div_pow]
  omega

theorem sub_one_toNat {r : Half} (h : 1 ≤ r.toNat) : (r - 1).toNat + 1 = r.toNat := by
  have := r.isLt
  rw [BitVec.toNat_sub]
  simp
  omega

/-- `rem <- L + 1` does not wrap (00_scope R5). -/
theorem add_one_toNat {L : Half} {m : MaxLen} (h : L.toNat ≤ m.value) : (L + 1).toNat = L.toNat + 1 := by
  have := m.le_max
  rw [BitVec.toNat_add]
  simp
  omega

/-! ### The stuffed sequence -/

theorem stuffBytes_cons (v : Byte) (vs : List Byte) : stuffBytes (v :: vs) = stuffBytes [v] ++ stuffBytes vs := by
  simp only [stuffBytes]
  split <;> rfl

theorem stuffBytes_append (xs ys : List Byte) : stuffBytes (xs ++ ys) = stuffBytes xs ++ stuffBytes ys := by
  induction xs with
  | nil => rfl
  | cons x xs ih => rw [List.cons_append, stuffBytes_cons, ih, stuffBytes_cons x xs, List.append_assoc]

/-- The second byte of a pair is no escape marker. -/
theorem xorMask_ne_escMark {v : Byte} (h : v ∈ Config.escapable) : xorMask v ≠ Config.escMark := by
  simp only [Config.escapable, List.mem_cons, List.not_mem_nil, or_false] at h
  rcases h with rfl | rfl | rfl | rfl <;> decide

end Sys2Proof.Machine
end

