-- ==== Sys2Proof/Laws/PerInstr.lean ====
section
/-! SUPPORT. Statements about every instruction, one lemma per constructor. -/

namespace Sys2Proof.Laws.EncodeFormat

/-- The formats of the opcode table whose encoding stands at each place. -/
def formatsOf : Code → List Format
  | .item (.byte _) => [.rawByte]
  | .item _ => [.inputItem]
  | .bypassed _ => [.rawByte]
  | .pair _ _ => [.rawPair]
  | .logical _ => [.logicalByte]
  | .frame _ => [.frame]
  | .typed _ => [.typeByte]
  | .evErr _ => [.evErrCode]
  | .evTag _ => [.evTagCode]

/-- The formats without an encoding (the table's "internal:" and "shorthand:" rows). -/
def internal : List Format := [.completion, .microOp, .function, .pseudo]

/-- An instruction is encoded where the opcode table's column "format" says, and has no encoding exactly where the
table gives none. -/
def Statement (i : Instr) : Prop :=
  match encode i with
  | some k => i.format ∈ formatsOf k
  | none => i.format ∈ internal

theorem reset : Statement .reset := List.mem_cons_self
theorem unEos : Statement .unEos := List.mem_cons_self
theorem noByte : Statement .noByte := List.mem_cons_self
theorem wsStart : Statement .wsStart := List.mem_cons_self
theorem wsSkip (b : Byte) : Statement (.wsSkip b) := List.mem_cons_self
theorem unBypass (b : Byte) : Statement (.unBypass b) := List.mem_cons_self
theorem unEsc : Statement .unEsc := List.mem_cons_self
theorem unXor (b : Byte) : Statement (.unXor b) := List.mem_cons_self
theorem unPass (b : Byte) : Statement (.unPass b) := List.mem_cons_self
theorem escPair7E : Statement .escPair7E := List.mem_cons_self
theorem escPair7D : Statement .escPair7D := List.mem_cons_self
theorem escPair11 : Statement .escPair11 := List.mem_cons_self
theorem escPair13 : Statement .escPair13 := List.mem_cons_self
theorem escPairAny (b : Byte) : Statement (.escPairAny b) := List.mem_cons_self
theorem rlhByte (v : Byte) : Statement (.rlhByte v) := List.mem_cons_self
theorem rllAccept (v : Byte) : Statement (.rllAccept v) := List.mem_cons_self
theorem rllTooLarge (v : Byte) : Statement (.rllTooLarge v) := List.mem_cons_self
theorem rbStore (v : Byte) : Statement (.rbStore v) := List.mem_cons_self
theorem rbLast (v : Byte) : Statement (.rbLast v) := List.mem_cons_self
theorem doneOk (c : Byte) : Statement (.doneOk c) :=
  (by decide : Format.completion ∈ internal)
theorem doneBadCk (c : Byte) : Statement (.doneBadCk c) :=
  (by decide : Format.completion ∈ internal)
theorem doneEmpty (c : Byte) : Statement (.doneEmpty c) :=
  (by decide : Format.completion ∈ internal)
theorem ckClear : Statement .ckClear :=
  (by decide : Format.microOp ∈ internal)
theorem ckAdd (v : Byte) : Statement (.ckAdd v) :=
  (by decide : Format.microOp ∈ internal)
theorem ckValue (src : CkSource) : Statement (.ckValue src) :=
  (by decide : Format.function ∈ internal)
theorem ckCheck (src : CkSource) (c : Byte) : Statement (.ckCheck src c) :=
  (by decide : Format.microOp ∈ internal)
theorem frame (len : Half) (span : List Byte) : Statement (.frame len span) := List.mem_cons_self
theorem typeReceive (body : List Byte) : Statement (.typeReceive body) := List.mem_cons_self
theorem typeTransmissionStatus (body : List Byte) : Statement (.typeTransmissionStatus body) := List.mem_cons_self
theorem typeAtResponse (body : List Byte) : Statement (.typeAtResponse body) := List.mem_cons_self
theorem typeRemoteAtResponse (body : List Byte) : Statement (.typeRemoteAtResponse body) := List.mem_cons_self
theorem typeRemoteAtRequestOutbound (body : List Byte) : Statement (.typeRemoteAtRequestOutbound body) := List.mem_cons_self
theorem typeUnknown (t : Byte) (body : List Byte) : Statement (.typeUnknown t body) := List.mem_cons_self
theorem dispatch (t : Byte) : Statement (.dispatch t) :=
  (by decide : Format.function ∈ internal)
theorem stuff (bs : List Byte) : Statement (.stuff bs) :=
  (by decide : Format.pseudo ∈ internal)
theorem frameEnc (t : Byte) (body : List Byte) : Statement (.frameEnc t body) :=
  (by decide : Format.pseudo ∈ internal)
theorem frameRawLen (t : Byte) (body : List Byte) : Statement (.frameRawLen t body) :=
  (by decide : Format.pseudo ∈ internal)
theorem errChecksumError : Statement .errChecksumError := List.mem_cons_self
theorem errFrameTooLarge : Statement .errFrameTooLarge := List.mem_cons_self
theorem errEscapeSequenceError : Statement .errEscapeSequenceError := List.mem_cons_self
theorem errEmptyFrame : Statement .errEmptyFrame := List.mem_cons_self
theorem tagUnknown : Statement .tagUnknown := List.mem_cons_self
theorem tagReceive : Statement .tagReceive := List.mem_cons_self
theorem tagTransmissionStatus : Statement .tagTransmissionStatus := List.mem_cons_self
theorem tagAtResponse : Statement .tagAtResponse := List.mem_cons_self
theorem tagRemoteAtResponse : Statement .tagRemoteAtResponse := List.mem_cons_self

end Sys2Proof.Laws.EncodeFormat
end

