-- ==== Sys2Proof/Tests/Slice0.lean ====
section
/-! SUPPORT. The model's own tests. Expected results come from spec/ ("V-…", "P…": 95_test_vectors.md), never from the
model. `wit_…` theorems show states and operands that meet the hypotheses of the statements. -/

namespace Sys2Proof.Machine.Tests

/-! ### Small states -/

def m255 : MaxLen := ⟨255, by decide, by decide⟩
def m4 : MaxLen := ⟨4, by decide, by decide⟩
def m1 : MaxLen := ⟨1, by decide, by decide⟩
def mTop : MaxLen := ⟨65534, by decide, by decide⟩

def idle : State := State.resetWith m255
def atHigh : State := { idle with st := .readLengthHigh }
def atLow (len : Half) : State := { idle with st := .readLengthLow, len := len }

/-- In `ReadBody`, with these bytes stored. -/
def inBody (len rem : Half) (sum : Byte) (bs : List Byte) : State :=
  { idle with st := .readBody, len := len, rem := rem, sum := sum, buf := (List.range bs.length).zip bs }

def escaped (s : State) : State := { s with esc := true }

/-- A field of the next state; none at a stop. -/
def after {α : Type} (r : Res) (f : State → α) : Option α :=
  match r with
  | .next s => some (f s)
  | .fault _ => none
  | .refused _ => none

def refusedByRule (r : Res) : Bool :=
  match r with
  | .refused .ruleDoesNotApply => true
  | _ => false

/-- The registers, for tests that check them all. -/
structure Regs where
  st : Ctrl
  esc : Bool
  len : Half
  rem : Half
  sum : Byte
  buf : Memory
deriving DecidableEq

def regs (s : State) : Regs := ⟨s.st, s.esc, s.len, s.rem, s.sum, s.buf⟩

/-! ### WellFormed: an ill-formed term for each check -/

theorem test_wf_wsSkip : (Instr.wsSkip 0x7E).wellFormed = false := by decide
theorem test_wf_unXor : (Instr.unXor 0x7D).wellFormed = false := by decide
theorem test_wf_unPass : (Instr.unPass 0x7D).wellFormed = false := by decide
theorem test_wf_escPairAny :
    [0x7D, 0x5E, 0x5D, 0x31, 0x33].map (fun b => (Instr.escPairAny b).wellFormed) = List.replicate 5 false := by decide
theorem test_wf_frame :
    (Instr.frame 1 [0x55]).wellFormed = false ∧ (Instr.frame 0 [0x55, 0xAA]).wellFormed = false ∧
      (Instr.frame 1 [0x55, 0xAA]).wellFormed = true := by decide
theorem test_wf_typeUnknown :
    [0x90, 0x8B, 0x88, 0x97, 0x17].map (fun t => (Instr.typeUnknown t []).wellFormed) = List.replicate 5 false := by
  decide
theorem test_wf_frameEnc : (Instr.frameEnc 0x55 (List.replicate 65535 0)).wellFormed = false := by
  rw [Instr.wellFormed, List.length_replicate]
  decide
theorem test_wf_frameRawLen : (Instr.frameRawLen 0x55 (List.replicate 65535 0)).wellFormed = false := by
  rw [Instr.wellFormed, List.length_replicate]
  decide

/-! ### Decoding: words written out from the encodings of the opcode table -/

-- raw bytes by control state and `esc` (30_encoding R56)
theorem test_decode_wsStart : decodeRaw idle.ctx 0b01111110 = .wsStart := by decide
theorem test_decode_wsSkip :
    decodeRaw idle.ctx 0b01000001 = .wsSkip 0x41 ∧ decodeRaw idle.ctx 0b01111101 = .wsSkip 0x7D := by decide
theorem test_decode_unBypass : (decode idle.ctx (.bypassed 0b01111101)).toOption = some (.unBypass 0x7D) ∧
    (decode atHigh.ctx (.bypassed 0b01111101)).toOption = none := by decide
theorem test_decode_unEsc : decodeRaw atHigh.ctx 0b01111101 = .unEsc ∧
    decodeRaw (escaped atHigh).ctx 0b01111101 = .unEsc := by decide
theorem test_decode_unXor : decodeRaw (escaped atHigh).ctx 0b01011110 = .unXor 0x5E ∧
    decodeRaw (escaped atHigh).ctx 0b01111110 = .unXor 0x7E := by decide
theorem test_decode_unPass : decodeRaw atHigh.ctx 0b01111110 = .unPass 0x7E ∧
    decodeRaw atHigh.ctx 0b00010001 = .unPass 0x11 := by decide
-- items without a byte
theorem test_decode_items : decodeItem atHigh.ctx .reset = .reset ∧ decodeItem atHigh.ctx .eos = .unEos ∧
    decodeItem atHigh.ctx .none = .noByte := by decide
-- raw pairs, first byte in bits 15:8
theorem test_decode_pairs :
    decodeTableWord 16 0b0111110101011110 = some .escPair7E ∧ decodeTableWord 16 0b0111110101011101 = some .escPair7D ∧
    decodeTableWord 16 0b0111110100110001 = some .escPair11 ∧ decodeTableWord 16 0b0111110100110011 = some .escPair13 ∧
    decodeTableWord 16 0b0111110100100000 = some (.escPairAny 0x20) := by decide
theorem test_decode_noPair : decodeTableWord 16 0x7D7D = none ∧ decodeTableWord 16 0x415E = none ∧
    (decode idle.ctx (.pair 0x7D 0x5E)).toOption = none := by decide
theorem test_decode_tableBytes : decodeTableWord 8 0x7E = some .wsStart ∧ decodeTableWord 8 0x7D = some .unEsc ∧
    decodeTableWord 8 0x00 = some (.wsSkip 0) ∧ decodeTableWord 3 1 = none := by decide
-- logical bytes
theorem test_decode_rlhByte : (decode atHigh.ctx (.logical 0x7E)).toOption = some (.rlhByte 0x7E) := by decide
theorem test_decode_rllAccept : (decode (atLow 0).ctx (.logical 0xFF)).toOption = some (.rllAccept 0xFF) := by decide
theorem test_decode_rllTooLarge :
    (decode (atLow 0x0100).ctx (.logical 0)).toOption = some (.rllTooLarge 0) := by decide
theorem test_decode_rbStore :
    (decode (inBody 1 2 0 []).ctx (.logical 0x55)).toOption = some (.rbStore 0x55) := by decide
theorem test_decode_rbLast :
    (decode (inBody 1 1 0x55 [0x55]).ctx (.logical 0xAA)).toOption = some (.rbLast 0xAA) := by decide
-- completions (R96)
theorem test_decode_completion : decodeCompletion (inBody 1 1 0x55 [0x55]).ctx 0xAA = .doneOk 0xAA ∧
    decodeCompletion (inBody 1 1 0x55 [0x55]).ctx 0xAB = .doneBadCk 0xAB ∧
    decodeCompletion (inBody 0 1 0 []).ctx 0xFF = .doneEmpty 0xFF ∧
    decodeCompletion (inBody 0 1 0 []).ctx 0x00 = .doneBadCk 0x00 := by decide
-- frames, length high byte first (R53)
theorem test_decode_frame :
    (decode idle.ctx (.frame [0x7E, 0x00, 0x01, 0x55, 0xAA])).toOption = some (.frame 1 [0x55, 0xAA]) ∧
    assembleLength 0x41 0x42 = 0x4142 := by decide
theorem test_decode_notFrame : (decode idle.ctx (.frame [0x7D, 0, 0, 0xFF])).toOption = none ∧
    (decode idle.ctx (.frame [0x7E, 0])).toOption = none ∧
    (decode idle.ctx (.frame [0x7E, 0, 1, 0x55])).toOption = none ∧
    (decode atHigh.ctx (.frame [0x7E, 0, 0, 0xFF])).toOption = none := by decide
-- type bytes
theorem test_decode_types :
    decodeType 0b10010000 [1] = .typeReceive [1] ∧ decodeType 0b10001011 [1] = .typeTransmissionStatus [1] ∧
    decodeType 0b10001000 [1] = .typeAtResponse [1] ∧ decodeType 0b10010111 [1] = .typeRemoteAtResponse [1] ∧
    decodeType 0b00010111 [1] = .typeRemoteAtRequestOutbound [1] ∧ decodeType 0x08 [1] = .typeUnknown 0x08 [1] ∧
    (decode idle.ctx (.typed [])).toOption = none := by decide
-- port codes (R140, R111)
theorem test_decode_errCodes :
    (List.range 8).map (fun n => (decode idle.ctx (.evErr (BitVec.ofNat 3 n))).toOption) =
      [none, some .errChecksumError, some .errFrameTooLarge, some .errEscapeSequenceError, some .errEmptyFrame,
       none, none, none] := by decide
theorem test_decode_tagCodes :
    (List.range 8).map (fun n => (decode idle.ctx (.evTag (BitVec.ofNat 3 n))).toOption) =
      [some .tagUnknown, some .tagReceive, some .tagTransmissionStatus, some .tagAtResponse,
       some .tagRemoteAtResponse, none, none, none] := by decide

/-! ### One instruction each -/

-- R161, V-A25: reset with an escape pending gives no event
theorem test_reset : after (exec .reset (escaped (inBody 2 2 0x88 [0x88]))) (fun t => (regs t, t.event)) =
    some (⟨.waitStart, false, 0, 0, 0, []⟩, none) := by decide
-- V-U22, V-U21
theorem test_unEos_pending : after (exec .unEos (escaped (inBody 2 2 0x88 [0x88]))) (fun t => (regs t, t.event)) =
    some (⟨.readBody, false, 2, 2, 0x88, [(0, 0x88)]⟩, some (.error .escapeSequenceError)) := by decide
theorem test_unEos : after (exec .unEos (inBody 2 2 0x88 [0x88])) (fun t => (t.rem, t.event)) = some (2, none) := by
  decide
-- R101
theorem test_noByte : after (exec .noByte (escaped atHigh)) regs = some (regs (escaped atHigh)) := by decide
-- trace of V-A1
theorem test_wsStart : after (exec .wsStart idle) regs = some ⟨.readLengthHigh, false, 0, 0, 0, []⟩ := by decide
theorem test_wsSkip : after (exec (.wsSkip 0x7D) idle) regs = some ⟨.waitStart, false, 0, 0, 0, []⟩ := by decide
-- 41_unstuffer: "raw `7D 7E` ends with `st = ReadLengthHigh, esc = 0`"
theorem test_unBypass_marker :
    after (andThen (exec (.unBypass 0x7D) idle) (exec (.unBypass 0x7E))) (fun t => (t.st, t.esc)) =
      some (.readLengthHigh, false) := by decide
-- P1, index 7 and 8
theorem test_unEsc : after (exec .unEsc (inBody 14 13 0x90 [0x90, 0])) (fun t => (t.esc, t.rem, t.sum)) =
    some (true, 13, 0x90) := by decide
theorem test_unXor : after (exec (.unXor 0x33) (escaped (inBody 14 13 0x90 [0x90, 0]))) regs =
    some ⟨.readBody, false, 14, 12, 0xA3, [(0, 0x90), (1, 0), (2, 0x13)]⟩ := by decide
-- V-U8: 0x7E after a marker is the data byte 0x5E
theorem test_unXor_start : after (exec (.unXor 0x7E) (escaped (inBody 2 3 0 []))) (fun t => t.buf) =
    some [(0, 0x5E)] := by decide
-- V-U15
theorem test_unPass : after (exec (.unPass 0x7E) (inBody 2 3 0 [])) (fun t => (t.buf, t.rem)) =
    some ([(0, 0x7E)], 2) := by decide
-- V-U1 to V-U5
theorem test_escPairs :
    [Instr.escPair7E, .escPair7D, .escPair11, .escPair13, .escPairAny 0x41].map
        (fun i => after (exec i (inBody 2 3 0 [])) fun t => (t.buf, t.esc)) =
      [some ([(0, 0x7E)], false), some ([(0, 0x7D)], false), some ([(0, 0x11)], false), some ([(0, 0x13)], false),
       some ([(0, 0x61)], false)] := by decide
-- R92 "`v = 0x01` gives `len = 0x0100`"
theorem test_rlhByte : after (exec (.rlhByte 0x01) atHigh) (fun t => (t.len, t.st)) = some (0x0100, .readLengthLow) := by
  decide
-- R93 "`len = 0x0000, v = 0x06` gives `len = 6, rem = 7`"; V-A9 at the bound
theorem test_rllAccept : after (exec (.rllAccept 0x06) (atLow 0)) regs = some ⟨.readBody, false, 6, 7, 0, []⟩ := by
  decide
theorem test_rllAccept_bound : after (exec (.rllAccept 0xFF) (atLow 0)) (fun t => (t.len, t.rem)) = some (255, 256) := by
  decide
-- V-A10
theorem test_rllTooLarge : after (exec (.rllTooLarge 0) (atLow 0x0100)) (fun t => (regs t, t.event)) =
    some (⟨.waitStart, false, 0, 0, 0, []⟩, some (.error .frameTooLarge)) := by decide
-- R95 "`rem = 7, buf = [], sum = 0`, `v = 0x88`"
theorem test_rbStore : after (exec (.rbStore 0x88) (inBody 6 7 0 [])) regs =
    some ⟨.readBody, false, 6, 6, 0x88, [(0, 0x88)]⟩ := by decide
-- the sum wraps: P1, index 9
theorem test_rbStore_wraps : after (exec (.rbStore 0xA2) (inBody 14 12 0xA3 [0x90, 0, 0x13])) (fun t => t.sum) =
    some 0x45 := by decide
-- V-D4: the last byte, and a wrong one (P2)
theorem test_rbLast : after (exec (.rbLast 0x46) (inBody 6 1 0xB9 [0x8B, 0x01, 0xFF, 0xFE, 0x00, 0x30]))
      (fun t => (regs t, t.event)) =
    some (⟨.waitStart, false, 0, 0, 0, []⟩, some (.packet
      { tag := .transmissionStatus, frameType := 0x8B, body := [0x01, 0xFF, 0xFE, 0x00, 0x30], cksum := 0x46
        fields := some [(.frameId, [0x01]), (.destinationShortAddr, [0xFF, 0xFE]), (.statusCode, [0x00]),
                        (.linkQuality, [0x30])] })) := by decide
theorem test_rbLast_wrong : after (exec (.rbLast 0xA7) (inBody 6 1 0x59 [0x88, 0x05, 0x44, 0x42, 0x28, 0x1E]))
      (fun t => t.event) = some (some (.error .checksumError)) := by decide
-- V-A1, V-A3, V-A2
theorem test_doneOk : after (exec (.doneOk 0xAA) (inBody 1 1 0x55 [0x55])) (fun t => t.event) =
    some (some (.packet { tag := .unknown, frameType := 0x55, body := [], cksum := 0xAA, fields := some [] })) := by
  decide
theorem test_doneBadCk : after (exec (.doneBadCk 0x00) (inBody 0 1 0 [])) (fun t => t.event) =
    some (some (.error .checksumError)) := by decide
theorem test_doneEmpty : after (exec (.doneEmpty 0xFF) (inBody 0 1 0 [])) (fun t => (t.event, t.st)) =
    some (some (.error .emptyFrame), .waitStart) := by decide
-- R71 "`sum = 0x80, v = 0x80` gives 0x00"; section 2.1, register form
theorem test_ckClear : after (exec .ckClear (inBody 1 1 0x55 [0x55])) (fun t => t.sum) = some 0 := by decide
theorem test_ckAdd : after (exec (.ckAdd 0x80) (inBody 1 1 0x80 [0x80])) (fun t => t.sum) = some 0x00 := by decide
-- V-K12, V-K1
theorem test_ckValue : after (exec (.ckValue (.seq [0x8B, 0x01, 0xFF, 0xFE, 0x00, 0x30])) idle) (fun t => t.result) =
    some (.byte 0x46) := by decide
theorem test_ckValue_register : after (exec (.ckValue .register) idle) (fun t => t.result) = some (.byte 0xFF) := by
  decide
-- section 2.1: `CK_CHECK(0xA6)` holds, `CK_CHECK(0xA7)` fails
theorem test_ckCheck : after (exec (.ckCheck .register 0xA6) (inBody 6 1 0x59 [])) (fun t => t.result) =
      some (.truth true) ∧
    after (exec (.ckCheck .register 0xA7) (inBody 6 1 0x59 [])) (fun t => t.result) = some (.truth false) := by decide
-- V-K17: an XOR of the bytes would give 00
theorem test_ckCheck_seq : after (exec (.ckCheck (.seq [0x01, 0x01]) 0xFD) idle) (fun t => t.result) =
    some (.truth true) := by decide
-- V-A4; V-A6 with `MAX_LEN = 4`
theorem test_frame : after (exec (.frame 2 [0x7E, 0x7E, 0x03]) idle) (fun t => t.event) =
    some (some (.packet { tag := .unknown, frameType := 0x7E, body := [0x7E], cksum := 0x03, fields := some [] })) := by
  decide
theorem test_frame_tooLarge :
    after (exec (.frame 5 [1, 2, 3, 4, 5, 0xF0]) (State.resetWith m4)) (fun t => t.event) =
      some (some (.error .frameTooLarge)) := by decide
-- V-D3, V-D2
theorem test_typeReceive :
    after (exec (.typeReceive [1, 2, 3, 4, 5, 6, 7, 8, 0x0A, 0x0B, 0x48, 0x69, 0x28]) idle) (fun t => t.result) =
      some (.variant .receive (some [(.sourceLongAddr, [1, 2, 3, 4, 5, 6, 7, 8]), (.sourceShortAddr, [0x0A, 0x0B]),
        (.payload, [0x48, 0x69]), (.linkQuality, [0x28])])) := by decide
theorem test_typeReceive_short :
    after (exec (.typeReceive [1, 2, 3, 4, 5, 6, 7, 8, 0x0A, 0x0B]) idle) (fun t => t.result) =
      some (.variant .receive none) := by decide
-- V-D5: byte 99 is in no field; V-D9
theorem test_typeTransmissionStatus :
    after (exec (.typeTransmissionStatus [0x01, 0xFF, 0xFE, 0x00, 0x99, 0x30]) idle) (fun t => t.result) =
      some (.variant .transmissionStatus (some [(.frameId, [0x01]), (.destinationShortAddr, [0xFF, 0xFE]),
        (.statusCode, [0x00]), (.linkQuality, [0x30])])) := by decide
theorem test_typeTransmissionStatus_short :
    after (exec (.typeTransmissionStatus [0x01, 0xFF, 0xFE, 0x00]) idle) (fun t => t.result) =
      some (.variant .transmissionStatus none) := by decide
-- V-D7, V-D8
theorem test_typeAtResponse : after (exec (.typeAtResponse [0x05, 0x44, 0x42, 0x1E]) idle) (fun t => t.result) =
    some (.variant .atResponse (some [(.frameId, [0x05]), (.command, [0x44, 0x42]), (.payload, []),
      (.linkQuality, [0x1E])])) := by decide
theorem test_typeAtResponse_short : after (exec (.typeAtResponse [0x05, 0x44, 0x42]) idle) (fun t => t.result) =
    some (.variant .atResponse none) := by decide
-- V-D10, V-D12
theorem test_typeRemoteAtResponse :
    after (exec (.typeRemoteAtResponse [0x07, 0x00, 0x13, 0xA2, 0x00, 0x40, 0x0A, 0x0B, 0x0C, 0x12, 0x34, 0x4E, 0x49,
        0x00, 0x4E, 0x31, 0x2C]) idle) (fun t => t.result) =
      some (.variant .remoteAtResponse (some [(.frameId, [0x07]),
        (.sourceLongAddr, [0x00, 0x13, 0xA2, 0x00, 0x40, 0x0A, 0x0B, 0x0C]), (.sourceShortAddr, [0x12, 0x34]),
        (.command, [0x4E, 0x49]), (.statusCode, [0x00]), (.payload, [0x4E, 0x31]), (.linkQuality, [0x2C])])) := by
  decide
theorem test_typeRemoteAtResponse_short :
    after (exec (.typeRemoteAtResponse [0x07, 0x00, 0x13, 0xA2, 0x00, 0x40, 0x0A, 0x0B, 0x0C, 0x12, 0x34, 0x4E, 0x49,
        0x00]) idle) (fun t => t.result) = some (.variant .remoteAtResponse none) := by decide
-- V-D13, V-D14
theorem test_typeRemoteAtRequestOutbound :
    after (exec (.typeRemoteAtRequestOutbound [1, 2, 3]) idle) (fun t => t.result) =
      some (.variant .unknown (some [])) := by decide
theorem test_typeUnknown : after (exec (.typeUnknown 0x08 [0x01, 0x44, 0x42]) idle) (fun t => t.result) =
    some (.variant .unknown (some [])) := by decide
-- R110 "`dispatch(0x8B) = TransmissionStatus`", `T = 0x17` gives `Unknown`
theorem test_dispatch : after (exec (.dispatch 0x8B) idle) (fun t => t.result) = some (.tag .transmissionStatus) ∧
    after (exec (.dispatch 0x17) idle) (fun t => t.result) = some (.tag .unknown) := by decide
-- V-E3
theorem test_stuff : after (exec (.stuff [0x10, 0x11, 0x12, 0x13, 0x14]) idle) (fun t => t.result) =
    some (.bytes [0x10, 0x7D, 0x31, 0x12, 0x7D, 0x33, 0x14]) := by decide
-- V-E7, V-E9
theorem test_frameEnc : after (exec (.frameEnc 0x7E [0x7E]) idle) (fun t => t.result) =
    some (.bytes [0x7E, 0x00, 0x02, 0x7D, 0x5E, 0x7D, 0x5E, 0x03]) := by decide
theorem test_frameEnc_length : after (exec (.frameEnc 0x8B (List.replicate 16 0x01)) idle) (fun t => t.result) =
    some (.bytes ([0x7E, 0x00, 0x7D, 0x31, 0x8B] ++ List.replicate 16 0x01 ++ [0x64])) := by decide
-- V-E10
theorem test_frameRawLen : after (exec (.frameRawLen 0x8B (List.replicate 16 0x01)) idle) (fun t => t.result) =
    some (.bytes ([0x7E, 0x00, 0x11, 0x8B] ++ List.replicate 16 0x01 ++ [0x64])) := by decide
-- R144's table
theorem test_errors :
    [Instr.errChecksumError, .errFrameTooLarge, .errEscapeSequenceError, .errEmptyFrame].map
        (fun i => after (exec i (escaped (inBody 2 2 0x88 [0x88]))) fun t => (t.st, t.esc, t.len, t.event)) =
      [some (.waitStart, false, 0, some (.error .checksumError)), some (.waitStart, false, 0, some (.error .frameTooLarge)),
       some (.readBody, false, 2, some (.error .escapeSequenceError)), some (.waitStart, false, 0, some (.error .emptyFrame))] := by
  decide
-- R111's codes
theorem test_tags :
    [Instr.tagUnknown, .tagReceive, .tagTransmissionStatus, .tagAtResponse, .tagRemoteAtResponse].map
        (fun i => after (exec i idle) fun t => t.result) =
      [some (.tagPort .unknown 0), some (.tagPort .receive 1), some (.tagPort .transmissionStatus 2),
       some (.tagPort .atResponse 3), some (.tagPort .remoteAtResponse 4)] := by decide

/-! ### The step, the pins, the words of the table -/

-- R10: `rst` before `eos` before `in_valid`
theorem test_step_priority :
    after (step { escaped atHigh with input := [⟨true, true, true, 0x41⟩] }) (fun t => (t.st, t.event, t.input)) =
      some (.waitStart, none, [⟨false, true, true, 0x41⟩]) := by decide
-- R40: the block takes no input while the consumer is not ready
theorem test_step_waits :
    after (step { idle with event := some (.error .emptyFrame), evReady := [false], input := [Pins.ofItem (.byte 0x7E)] })
        (fun t => (t.st, t.event, t.input.length)) = some (.waitStart, some (.error .emptyFrame), 1) := by decide
-- R142: the event is with the consumer before the next item
theorem test_step_handsOver :
    after (step { idle with event := some (.error .emptyFrame), input := [Pins.ofItem (.byte 0x7E)] })
        (fun t => (t.st, t.outputs, t.event)) = some (.readLengthHigh, [.error .emptyFrame], none) := by decide
theorem test_fetchWord_byte : after (step (State.reset.withFetchWord 8 0x7E)) (fun t => t.st) = some .readLengthHigh ∧
    after (step (State.reset.withFetchWord 8 0x7D)) (fun t => t.esc) = some true := by decide
theorem test_fetchWord_pair :
    after (andThen (step ((inBody 2 3 0 []).withFetchWord 16 0x7D5E)) step) (fun t => t.buf) = some [(0, 0x7E)] := by
  decide

/-! ### Memory and stops -/

theorem test_memory_readBack : ((Memory.write [(0, 1), (2, 3)] 1 9).read 1, Memory.write [(0, 1), (2, 3)] 1 9) =
    (some 9, [(0, 1), (1, 9), (2, 3)]) := by decide
theorem test_reset_memory : State.reset.buf.wf = true ∧ State.reset.buf = [] := by decide
theorem test_stops : refusedByRule (exec (.rbStore 1) idle) = true ∧ refusedByRule (exec .unEsc idle) = true ∧
    refusedByRule (exec .wsStart atHigh) = true := by decide
/-! ### Witnesses: the hypotheses of each statement, met together, each clause at the edges of its range -/

/-- A body with two bytes of three stored, an escape pending. -/
def mid : State := escaped (inBody 3 2 0x03 [1, 2])
/-- The last byte of a valid frame is due, and of an empty one. -/
def last : State := inBody 1 1 0x55 [0x55]
def lastEmpty : State := inBody 0 1 0 []
/-- The largest buffer index of `MAX_LEN = 1` is about to be written last. -/
def full1 : State := { State.resetWith m1 with st := .readBody, len := 1, rem := 1, sum := 0xFF, buf := [(0, 0xFF)] }

theorem wit_StepRunsTheDecodedInstruction :
    (idle.inReady = true ∧ idle.input = []) ∧
    ({ idle with input := [Pins.ofItem (.byte 0x7E)] }.inReady = true ∧
      (decode idle.ctx (.item (Pins.ofItem (.byte 0x7E)).item)).toOption = some .wsStart) := by decide

theorem wit_OnePinIsActedOnByPriority :
    ∀ p ∈ [(⟨true, true, true, 1⟩ : Pins), ⟨true, false, false, 1⟩, ⟨false, true, true, 1⟩, ⟨false, true, false, 1⟩,
        ⟨false, false, true, 1⟩, ⟨false, false, false, 1⟩],
      { idle with input := [p] }.inReady = true ∧ { idle with input := [p] }.input = p :: [] := by decide

theorem wit_WaitingEventHoldsTheInput :
    { idle with event := some (.error .emptyFrame), evReady := [false] }.event.isSome = true ∧
    { idle with event := some (.error .emptyFrame), evReady := [false] }.evReady.head? = some false := by decide

theorem wit_NoneChangesNothingHoweverLong :
    mid.event = none ∧ mid.evReady = [] ∧
      { mid with input := List.replicate 2 (Pins.ofItem .none) }.input = List.replicate 2 (Pins.ofItem .none) := by
  decide

theorem wit_EosReportsOnlyAPendingEscape : mid.esc = true ∧ idle.esc = false := by decide

theorem wit_EscapeMarkerOnlySetsEsc : mid.st ≠ .waitStart ∧ atHigh.st ≠ .waitStart := by decide

theorem wit_XoredByteIsDeliveredInTheSameStep :
    mid.st ≠ .waitStart ∧ mid.esc = true ∧ (0x7E : Byte) ≠ 0x7D ∧ (0x5D : Byte) ≠ 0x7D ∧ mid.Inv := by decide

theorem wit_PassedByteIsDeliveredInTheSameStep :
    last.st ≠ .waitStart ∧ last.esc = false ∧ (0x7E : Byte) ≠ 0x7D ∧ (0x7C : Byte) ≠ 0x7D ∧ last.Inv := by decide

theorem wit_BypassedByteStartsOrIsSkipped : idle.st = .waitStart := by decide

theorem wit_EscapePairStandsForOneLogicalByte :
    mid.st ≠ .waitStart ∧ mid.Inv ∧ (0x41 : Byte) ≠ 0x7D := by decide

theorem wit_BlockUnstuffsAsTheFunctionDoes :
    mid.Inv ∧ mid.st = .readBody ∧ mid.event = none ∧ mid.input = [] ∧ mid.evReady = [] ∧
      (unstuffBytes mid.esc [0x31, 0x7D]).1.length < mid.rem.toNat := by decide

theorem wit_WaitStartWatchesForTheMarker : idle.st = .waitStart ∧ (0x7D : Byte) ≠ 0x7E ∧ idle.Inv := by decide

theorem wit_HighLengthByteIsShifted : atHigh.st = .readLengthHigh := by decide

theorem wit_AcceptedLengthStartsTheBody :
    (atLow 0).st = .readLengthLow ∧ ((atLow 0).len ||| (0xFF : Byte).setWidth 16).toNat ≤ (atLow 0).maxLen.value ∧
    ((atLow 0).len ||| (0x00 : Byte).setWidth 16).toNat ≤ (atLow 0).maxLen.value ∧ lengthLo (atLow 0).len = 0 := by
  decide

theorem wit_OversizedLengthIsRejectedAtOnce :
    ((atLow 0x0100).st = .readLengthLow ∧
      (atLow 0x0100).maxLen.value < ((atLow 0x0100).len ||| (0x00 : Byte).setWidth 16).toNat) ∧
    ({ State.resetWith mTop with st := .readLengthLow, len := 0xFF00 }.st = .readLengthLow ∧
      ((0xFF00 : Half) ||| (0xFF : Byte).setWidth 16) = 0xFFFF) := by decide

theorem wit_BodyByteIsStoredSummedAndCounted :
    mid.st = .readBody ∧ 1 < mid.rem.toNat ∧ mid.buf.length ≤ mid.maxLen.value ∧ mid.buf.contiguous ∧
    (inBody 1 2 0 []).buf.length ≤ (inBody 1 2 0 []).maxLen.value ∧ 1 < (inBody 1 2 0 []).rem.toNat := by decide

theorem wit_LastByteCompletesTheFrame :
    (last.st = .readBody ∧ last.rem = 1 ∧ (0xAB : Byte) ≠ 0xFF - last.sum) ∧
    (lastEmpty.st = .readBody ∧ lastEmpty.rem = 1 ∧ (0xFF : Byte) = 0xFF - lastEmpty.sum ∧ lastEmpty.len = 0) ∧
    ((0xAA : Byte) = 0xFF - last.sum ∧ last.len ≠ 0 ∧ last.Inv ∧ lastEmpty.Inv) := by
  and_intros <;> decide

theorem wit_ValidFrameIsDeliveredAsAPacket :
    (last.st = .readBody ∧ last.rem = 1 ∧ (0xAA : Byte) = 0xFF - last.sum ∧ last.buf.contiguous ∧
      last.buf.bytes = 0x55 :: [] ∧ last.len.toNat = ([] : List Byte).length + 1 ∧
      last.len.toNat ≤ last.maxLen.value) ∧
    (full1.st = .readBody ∧ full1.rem = 1 ∧ (0x00 : Byte) = 0xFF - full1.sum ∧ full1.buf.contiguous ∧
      full1.buf.bytes = 0xFF :: [] ∧ full1.len.toNat ≤ full1.maxLen.value) := by decide

theorem wit_CorruptFrameIsDiscarded :
    last.st = .readBody ∧ last.rem = 1 ∧ (0xAB : Byte) ≠ 0xFF - last.sum ∧
      lastEmpty.st = .readBody ∧ lastEmpty.rem = 1 ∧ (0xFE : Byte) ≠ 0xFF - lastEmpty.sum := by decide

theorem wit_EmptyFrameIsReported :
    lastEmpty.st = .readBody ∧ lastEmpty.rem = 1 ∧ (0xFF : Byte) = 0xFF - lastEmpty.sum ∧ lastEmpty.len = 0 := by decide

theorem wit_StartMarkerInsideAFrameIsData :
    (last.st ≠ .waitStart ∧ last.esc = false) ∧ (mid.st ≠ .waitStart ∧ mid.esc = true) ∧
    ({ mid with input := [Pins.ofItem (.byte 0x7E)] }.st = .readBody ∧ 1 < mid.rem.toNat ∧
      (∀ p ∈ [Pins.ofItem (.byte 0x7E)].head?, p.item ≠ .reset) ∧
      (after (step { mid with input := [Pins.ofItem (.byte 0x7E)] }) fun t => t.rem) = some 1) := by decide

theorem wit_WholeFrameHasOneOutcome :
    (idle.st = .waitStart ∧ (List.replicate 256 (0 : Byte)).length = (256 : Half).toNat ∧
      idle.maxLen.value < (256 : Half).toNat) ∧
    (([0x55] : List Byte).length = (1 : Half).toNat ∧ (1 : Half).toNat ≤ idle.maxLen.value ∧ (0xAB : Byte) ≠ ck [0x55] ∧
      (0xAA : Byte) = ck [0x55]) ∧
    (([] : List Byte).length = (0 : Half).toNat ∧ (0x00 : Byte) ≠ ck []) := by
  rw [List.length_replicate]
  and_intros <;> decide

theorem wit_ChecksumLaws : ([1, 2] : List Byte).Perm [2, 1] := by decide

theorem wit_SingleBitFlipsAreDetected : 0 < 8 ∧ 7 < 8 := by decide

theorem wit_VariantFieldsArePackedInOrder :
    ([1, 2, 3, 4, 5, 6, 7, 8] : List Byte).length = 8 ∧ ([9, 10] : List Byte).length = 2 ∧
      ([11, 12] : List Byte).length = 2 := by decide

theorem wit_ShortBodyHasNoFields :
    (List.replicate 10 (0 : Byte)).length < 11 ∧ (List.replicate 4 (0 : Byte)).length < 5 ∧
    (List.replicate 3 (0 : Byte)).length < 4 ∧ (List.replicate 14 (0 : Byte)).length < 15 := by decide

theorem wit_UnknownHasTheEmptyView :
    (0x08 : Byte) ≠ 0x90 ∧ (0x08 : Byte) ≠ 0x8B ∧ (0x08 : Byte) ≠ 0x88 ∧ (0x08 : Byte) ≠ 0x97 ∧
    (0x17 : Byte) ≠ 0x90 ∧ (0x17 : Byte) ≠ 0x8B ∧ (0x17 : Byte) ≠ 0x88 ∧ (0x17 : Byte) ≠ 0x97 := by decide

theorem wit_PortsShowTheEventsCode :
    { idle with event := some (.packet (packetOf 0x55 [] 0xAA)) }.event = some (.packet (packetOf 0x55 [] 0xAA)) ∧
    (packetOf 0x55 [] 0xAA).body.length < 65535 ∧
    { idle with event := some (.error .emptyFrame) }.event = some (.error .emptyFrame) ∧ idle.event = none ∧
    (idle.Inv ∧ idle.idle = true) ∧ (mid.st = .readBody ∧ mid.idle = false) ∧
    { idle with event := some (.error .emptyFrame), evReady := [false] }.inReady = false := by
  and_intros <;> decide

/-- The completing steps of `last`, and of a pending escape at `Eos`. -/
def stepLast : State := { last with input := [Pins.ofItem (.byte 0xAA)] }
def stepEos : State := { mid with input := [Pins.ofItem .eos] }

theorem wit_EveryOtherEventEndsIdle : stepLast.inReady = true ∧
    after (step stepLast) (fun t => t.event) = some (some (.packet (packetOf 0x55 [] 0xAA))) ∧
    Event.packet (packetOf 0x55 [] 0xAA) ≠ .error .escapeSequenceError := by decide

theorem wit_EscapeErrorComesOnlyFromEos : stepEos.inReady = true ∧
    after (step stepEos) (fun t => t.event) = some (some (.error .escapeSequenceError)) := by decide

theorem wit_EncodersWriteTheWireForm :
    1 + ([] : List Byte).length ≤ 65535 ∧ ∃ body : List Byte, 1 + body.length = 65535 :=
  ⟨by decide, List.replicate 65534 0, by rw [List.length_replicate]⟩

theorem wit_DecodeOfEncodeIsTheInstruction :
    (Instr.frame 1 [0x55, 0xAA]).wellFormed = true ∧ (Instr.frame 1 [0x55, 0xAA]).applies idle.ctx = true ∧
    encode (Instr.frame 1 [0x55, 0xAA]) = some (.frame [0x7E, 0x00, 0x01, 0x55, 0xAA]) := by decide

theorem wit_EncodeOfDecodeIsTheCode :
    (decode mid.ctx (.pair 0x7D 0x41)).toOption = some (.escPairAny 0x41) := by decide

theorem wit_EveryApplicableInstructionCompletes :
    mid.Inv ∧ (Instr.rbStore 3).applies mid.ctx = true ∧ last.Inv ∧ (Instr.doneOk 0xAA).applies last.ctx = true ∧
    lastEmpty.Inv ∧ (Instr.doneEmpty 0xFF).applies lastEmpty.ctx = true ∧
    idle.Inv ∧ (Instr.frame 1 [0x55, 0xAA]).applies idle.ctx = true ∧ (Instr.unBypass 0x7E).applies idle.ctx = true ∧
    (atLow 0).Inv ∧ (Instr.rllAccept 0xFF).applies (atLow 0).ctx = true := by
  and_intros <;> decide

theorem wit_OutsideItsRuleAnInstructionStops : (Instr.rbStore 3).applies idle.ctx = false := by decide

theorem wit_EveryStepKeepsTheInvariant : stepLast.Inv ∧ stepEos.Inv ∧
    after (step stepLast) (fun t => t.st) = some .waitStart ∧
    after (step stepEos) (fun t => t.esc) = some false := by
  and_intros <;> decide

theorem wit_TheBlockNeverStops : mid.Inv ∧ full1.Inv ∧ idle.Inv := by
  and_intros <;> decide

theorem wit_EventsAreAppendedOneByOne : after (step stepLast) (fun t => t.outputs.length) = some 1 ∧
    after (step stepEos) (fun t => t.outputs.length) = some 1 ∧ after (step idle) (fun t => t.outputs) = some [] := by
  decide

theorem wit_InstructionsLeaveTheEnvironmentAlone :
    after (exec (.rbLast 0xAA) last) (fun t => t.maxLen) = some last.maxLen ∧ Instr.rbLast 0xAA ≠ .reset ∧
    (Instr.rbLast 0xAA).format ∈ [Format.inputItem, .rawByte, .rawPair, .logicalByte, .completion, .frame, .evErrCode] ∧
    after (exec (.ckAdd 3) last) (fun t => t.result) = some last.result ∧
    after (step stepLast) (fun t => t.maxLen) = some stepLast.maxLen ∧
    after (step { mid with result := .byte 3, input := [Pins.ofItem .reset] }) (fun t => t.result) = some .none := by
  decide

theorem wit_FunctionsChangeOnlyTheOutputWires :
    (Instr.dispatch 0x90).format ∈ [Format.function, .typeByte, .pseudo, .evTagCode] ∧
    after (exec (.dispatch 0x90) mid) (fun t => t.result) = some (.tag .receive) ∧
    after (exec (.ckCheck .register 0xFC) mid) (fun t => t.result) = some (.truth true) := by decide

theorem wit_ByteTakersStoreOnlyAtTheWriteIndex :
    (Instr.unXor 0x23).format ∈ [Format.rawByte, .rawPair, .logicalByte] ∧ mid.st = .readBody ∧ 1 < mid.rem.toNat ∧
    after (exec (.unXor 0x23) mid) (fun t => t.buf.length) = some 3 ∧
    after (exec .unEsc mid) (fun t => t.buf.length) = some 2 := by decide

theorem wit_NonStoringInstructionsKeepTheBuffer :
    after (exec .unEos mid) (fun t => t.buf) = some mid.buf ∧ after (exec (.rlhByte 1) atHigh) (fun t => t.buf) = some [] ∧
    after (exec (.ckAdd 1) mid) (fun t => t.buf) = some mid.buf := by decide

theorem wit_BufferKeepsItsCanonicalForm : mid.buf.wf = true ∧
    after (exec (.rbStore 9) mid) (fun t => t.buf.wf) = some true := by decide

theorem wit_PacketsAreValidated : stepLast.Inv ∧ stepLast.inReady = true ∧
    after (step stepLast) (fun t => t.event) = some (some (.packet (packetOf 0x55 [] 0xAA))) := by decide

theorem wit_ChunkBoundariesAreInvisible : mid.input = [] ∧ mid.evReady = [] := by decide

theorem wit_FrameRoundTrip :
    idle.Inv ∧ idle.st = .waitStart ∧ idle.event = none ∧ idle.input = [] ∧ idle.evReady = [] ∧
    1 + (List.replicate 254 (0x7D : Byte)).length ≤ idle.maxLen.value ∧
    1 + ([] : List Byte).length ≤ (State.resetWith m1).maxLen.value ∧ (State.resetWith m1).Inv := by
  rw [List.length_replicate]
  and_intros <;> decide

theorem wit_RawLengthRoundTrip :
    idle.Inv ∧ idle.st = .waitStart ∧ idle.event = none ∧ idle.input = [] ∧ idle.evReady = [] ∧
    1 + (List.replicate 123 (0 : Byte)).length ≤ idle.maxLen.value ∧
    (1 + (List.replicate 123 (0 : Byte)).length) / 256 ≠ 0x7D ∧
    (1 + (List.replicate 123 (0 : Byte)).length) % 256 ≠ 0x7D := by
  rw [List.length_replicate]
  and_intros <;> decide

theorem wit_ResynchronisesAfterACorruptChecksum :
    idle.Inv ∧ idle.st = .waitStart ∧ idle.event = none ∧ idle.input = [] ∧ idle.evReady = [] ∧
    1 + ([0x05, 0x44] : List Byte).length ≤ idle.maxLen.value ∧ (0xA7 : Byte) ≠ ck [0x88, 0x05, 0x44] ∧
    (0xA7 : Byte) ≠ 0x7D := by decide

end Sys2Proof.Machine.Tests
end

section
/-! Unit CK: the value CK_VALUE drives, on a sequence and on the register (40_checksum R72). -/

namespace Sys2Proof.Machine

theorem exec_ckValue_seq (bs : List Byte) (s : State) :
    exec (.ckValue (.seq bs)) s = .next (s.withResult (.byte (ck bs))) := rfl

theorem exec_ckValue_register (s : State) :
    exec (.ckValue .register) s = .next (s.withResult (.byte (Config.ckBase - s.sum))) := rfl

/-- `Config.ckBase` has every bit set, so the subtraction from it flips each bit of the sum's low byte. -/
theorem ck_eq_not_sumMod (bs : List Byte) : ck bs = ~~~ sumMod bs :=
  BitVec.allOnes_sub_eq_not (sumMod bs)

/-- Settles O27: CK_VALUE drives `ck` of the sequence, whose value is known as a number (`ck_toNat`, no borrow) and as a
complement (`ck_eq_not_sumMod`), both over the exact sum. -/
theorem ckValueIsComplementOfTheSum : Obligations.CkValueIsComplementOfTheSum := by
  intro s bs
  have hNat : (ck bs).toNat = 255 - (bs.map BitVec.toNat).sum % 256 := by
    rw [ck_toNat, sumBytes_eq_sum]
  have hNot : ck bs = ~~~ BitVec.ofNat 8 (bs.map BitVec.toNat).sum := by
    rw [ck_eq_not_sumMod, sumMod, sumBytes_eq_sum]
  exact ⟨⟨ck bs, exec_ckValue_seq bs s, hNat, hNot⟩, exec_ckValue_register s⟩

end Sys2Proof.Machine
end

section
/-! Unit UN: a raw byte in a frame (41_unstuffer R80 to R82). The delivery of a logical byte completes in every state of
the invariant, and ends with no escape pending where none was pending before it. -/

namespace Sys2Proof.Machine

/-! ### Delivery under the invariant -/

/-- The read at completion answers the type byte and the body: under the invariant the cells `0..L-1` are written and
exist, and there is one at least when `L` is not 0 (20_memory R32, 42_reassembler R97). -/
theorem memRead_frame {s : State} (hinv : s.Inv) (hst : s.st = .readBody) (hr : ¬ 1 < s.rem.toNat)
    (hlen : s.len ≠ 0) : ∃ ty body, memRead s 0 s.len.toNat = .ok (ty :: body) := by
  obtain ⟨-, -, -, hbody⟩ := hinv
  obtain ⟨hmax, hrem, -, hcount, hcells, -⟩ := hbody hst
  have hread : memRead s 0 s.len.toNat = .ok ((s.buf.bytes.drop 0).take s.len.toNat) :=
    memRead_contiguous s hcells 0 _ (by omega) (by omega)
  cases hbs : (s.buf.bytes.drop 0).take s.len.toNat with
  | nil =>
    rw [hbs] at hread
    exact absurd (BitVec.eq_of_toNat_eq (memRead_ok hread).symm) hlen
  | cons ty body => exact ⟨ty, body, hbs ▸ hread⟩

theorem doneBadCk_eq {s : State} {c : Byte} (hst : s.st = .readBody) (hr : ¬ 1 < s.rem.toNat)
    (hc : c ≠ Config.ckBase - s.sum) : execDoneBadCk c s = .next (s.raise .checksumError) :=
  whenApplies_pos (applies_doneBadCk.2 ⟨⟨hst, hr⟩, hc⟩) _

theorem doneEmpty_eq {s : State} {c : Byte} (hst : s.st = .readBody) (hr : ¬ 1 < s.rem.toNat)
    (hc : c = Config.ckBase - s.sum) (hlen : s.len = 0) : execDoneEmpty c s = .next (s.raise .emptyFrame) :=
  whenApplies_pos (applies_doneEmpty.2 ⟨⟨hst, hr⟩, hc, hlen⟩) _

theorem doneOk_eq {s : State} {c ty : Byte} {body : List Byte} (hst : s.st = .readBody) (hr : ¬ 1 < s.rem.toNat)
    (hc : c = Config.ckBase - s.sum) (hlen : s.len ≠ 0) (hm : memRead s 0 s.len.toNat = .ok (ty :: body)) :
    execDoneOk c s = .next (s.idleState.emit (.packet (packetOf ty body c))) := by
  rw [execDoneOk, whenApplies_pos (applies_doneOk.2 ⟨⟨hst, hr⟩, hc, hlen⟩), hm]

/-- The three outcomes of the checksum byte, each with its own completion (42_reassembler R96). -/
theorem rbLast_completes {s : State} (hinv : s.Inv) (hst : s.st = .readBody) (hr : ¬ 1 < s.rem.toNat) (c : Byte) :
    ∃ t, execRbLast c s = .next t := by
  rw [execRbLast, whenApplies_pos (applies_rbLast.2 ⟨hst, hr⟩)]
  by_cases hc : c = Config.ckBase - s.sum
  · have hsum : s.ctx.sumMatches c = true := Ctx.sumMatches_iff.2 hc
    rw [if_neg (by simp [hsum])]
    by_cases hlen : s.len = 0
    · rw [if_pos hlen]
      exact ⟨_, doneEmpty_eq hst hr hc hlen⟩
    · obtain ⟨ty, body, hm⟩ := memRead_frame hinv hst hr hlen
      rw [if_neg hlen]
      exact ⟨_, doneOk_eq hst hr hc hlen hm⟩
  · have hsum : s.ctx.sumMatches c = false := Bool.eq_false_iff.2 (mt Ctx.sumMatches_iff.1 hc)
    rw [if_pos (by simp [hsum])]
    exact ⟨_, doneBadCk_eq hst hr hc⟩

/-- In a frame the reassembler takes every logical byte (42_reassembler R92 to R96). -/
theorem deliver_completes {s : State} (hinv : s.Inv) (hf : s.st ≠ .waitStart) (v : Byte) :
    ∃ t, deliver v s = .next t := by
  cases hst : s.st with
  | waitStart => exact absurd hst hf
  | readLengthHigh => exact ⟨_, deliver_lengthHigh hst⟩
  | readLengthLow =>
    by_cases hL : (withLowLength s.len v).toNat ≤ s.maxLen.value
    · exact ⟨_, deliver_accepted hst hL⟩
    · exact ⟨_, deliver_tooLarge hst (Nat.not_le.1 hL)⟩
  | readBody =>
    by_cases hr : 1 < s.rem.toNat
    · obtain ⟨-, -, -, hbody⟩ := hinv
      obtain ⟨hmax, -, -, hcount, -, -⟩ := hbody hst
      exact ⟨_, deliver_stored hst hr (by omega)⟩
    · rw [deliver_last hst hr]
      exact rbLast_completes hinv hst hr v

/-- A delivery sets no escape: it keeps `esc` or goes to the idle state. -/
theorem Delivered.esc_eq_false {v : Byte} {s t : State} (h : Delivered v s t) (he : s.esc = false) :
    t.esc = false := by
  obtain ⟨-, -, hesc⟩ | ⟨e, -, rfl⟩ := h.event
  · rw [hesc, he]
  · rfl

/-- The invariant speaks of `esc` in `WaitStart` only, where it is 0. -/
theorem State.Inv.clearEsc {s : State} (h : s.Inv) : s.clearEsc.Inv := by
  obtain ⟨hw, hh, hl, hb⟩ := h
  exact ⟨fun hst => ⟨rfl, (hw hst).2⟩, hh, hl, hb⟩

/-- The delivery of a logical byte with no escape pending completes and leaves none pending. -/
theorem deliver_completes_unescaped {s : State} (hinv : s.Inv) (hf : s.st ≠ .waitStart) (he : s.esc = false)
    (v : Byte) : ∃ t, deliver v s = .next t ∧ t.esc = false := by
  obtain ⟨t, ht⟩ := deliver_completes hinv hf v
  exact ⟨t, ht, (deliver_delivered ht).esc_eq_false he⟩

/-- In a frame a delivery is the execution of the instruction the logical byte decodes to. -/
theorem exists_decodeLogical_deliver {s : State} (hf : s.st ≠ .waitStart) (v : Byte) :
    ∃ i, decodeLogical s.ctx v = .ok i ∧ deliver v s = exec i s := by
  obtain ⟨i, hi⟩ := decodeLogical_inFrame (c := s.ctx) (Ctx.inFrame_iff.2 hf) v
  exact ⟨i, hi, deliver_eq_exec hi⟩

/-! ### The class of a raw byte in a frame (30_encoding R56), and the meaning of each class -/

theorem decodeRaw_escMark {c : Ctx} (hf : c.st ≠ .waitStart) : decodeRaw c Config.escMark = .unEsc := by
  rw [decodeRaw, if_pos (Ctx.inFrame_iff.2 hf), if_pos rfl]

theorem decodeRaw_unXor {c : Ctx} {b : Byte} (hf : c.st ≠ .waitStart) (he : c.esc = true) (hb : b ≠ Config.escMark) :
    decodeRaw c b = .unXor b := by
  rw [decodeRaw, if_pos (Ctx.inFrame_iff.2 hf), if_neg hb, if_pos he]

theorem decodeRaw_unPass {c : Ctx} {b : Byte} (hf : c.st ≠ .waitStart) (he : c.esc = false) (hb : b ≠ Config.escMark) :
    decodeRaw c b = .unPass b := by
  rw [decodeRaw, if_pos (Ctx.inFrame_iff.2 hf), if_neg hb, if_neg (Bool.eq_false_iff.1 he)]

theorem exec_unEsc {s : State} (hf : s.st ≠ .waitStart) : exec .unEsc s = .next s.setEsc :=
  whenApplies_pos (applies_unEsc.2 hf) _

theorem exec_unXor {s : State} {b : Byte} (hf : s.st ≠ .waitStart) (he : s.esc = true) (hb : b ≠ Config.escMark) :
    exec (.unXor b) s = deliver (xorMask b) s.clearEsc :=
  whenApplies_pos (applies_unXor.2 ⟨hf, he, hb⟩) _

theorem exec_unPass {s : State} {b : Byte} (hf : s.st ≠ .waitStart) (he : s.esc = false) (hb : b ≠ Config.escMark) :
    exec (.unPass b) s = deliver b s :=
  whenApplies_pos (applies_unPass.2 ⟨hf, he, hb⟩) _

/-- Settles O9: the byte after a marker is a delivery at `esc = 0`, which decodes, completes under the invariant and
sets no escape. -/
theorem xoredByteIsDeliveredInTheSameStep : Obligations.XoredByteIsDeliveredInTheSameStep := by
  intro s b hf he hb
  rw [exec_unXor hf he hb]
  exact ⟨decodeRaw_unXor hf he hb, exists_decodeLogical_deliver (s := s.clearEsc) hf (xorMask b),
    fun hinv => deliver_completes_unescaped hinv.clearEsc hf rfl (xorMask b)⟩

/-- Settles O10: a byte without a marker before it is a delivery of the byte itself at `esc = 0`. -/
theorem passedByteIsDeliveredInTheSameStep : Obligations.PassedByteIsDeliveredInTheSameStep := by
  intro s b hf he hb
  rw [exec_unPass hf he hb]
  exact ⟨decodeRaw_unPass hf he hb, exists_decodeLogical_deliver hf b,
    fun hinv => deliver_completes_unescaped hinv hf he b⟩

/-- Settles O8: neither the decoder nor the meaning of the marker looks at `esc`. -/
theorem escapeMarkerOnlySetsEsc : Obligations.EscapeMarkerOnlySetsEsc :=
  fun _ hf => ⟨decodeRaw_escMark hf, exec_unEsc hf⟩

end Sys2Proof.Machine
end

section
/-! Unit RA: the frame reassembler (42_reassembler R90 to R98, R101). Each transition is the logical byte's decoding and
the delivery it stands for; the last byte of the span runs the completion that the checksum and the length select. -/

namespace Sys2Proof.Machine

/-! ### The item `None` (R101) -/

/-- A step that takes `None` with no event waiting takes the item and changes nothing else. -/
theorem step_none {s : State} {ps : List Pins} (he : s.event = none) (hr : s.evReady = [])
    (hi : s.input = Pins.ofItem .none :: ps) : step s = .next { s with input := ps } := by
  rw [step_presented hr hi, he, Option.toList_none, List.append_nil]
  rfl

/-- Settles O6: by induction on the number of items, each step taking one of them (`step_none`). -/
theorem noneChangesNothingHoweverLong : Obligations.NoneChangesNothingHoweverLong := by
  refine ⟨fun _ => rfl, ?_⟩
  intro s n he hr hi
  induction n generalizing s with
  | zero => exact congrArg (fun ps => Host.Outcome.next { s with input := ps }) hi
  | succ n ih =>
    rw [runSteps_succ, step_none he hr (hi.trans List.replicate_succ), andThen_next]
    exact ih _ he hr rfl

/-! ### The class of a raw byte in `WaitStart` (30_encoding R56) -/

theorem decodeRaw_start {c : Ctx} (hw : c.st = .waitStart) : decodeRaw c Config.start = .wsStart := by
  rw [decodeRaw, if_neg (not_not_intro hw ∘ Ctx.inFrame_iff.1), if_pos rfl]

theorem decodeRaw_skip {c : Ctx} {b : Byte} (hw : c.st = .waitStart) (hb : b ≠ Config.start) :
    decodeRaw c b = .wsSkip b := by
  rw [decodeRaw, if_neg (not_not_intro hw ∘ Ctx.inFrame_iff.1), if_neg hb]

theorem exec_wsStart {s : State} (hw : s.st = .waitStart) : exec .wsStart s = .next { s with st := .readLengthHigh } :=
  whenApplies_pos (applies_wsStart.2 hw) _

theorem exec_wsSkip {s : State} {b : Byte} (hw : s.st = .waitStart) (hb : b ≠ Config.start) :
    exec (.wsSkip b) s = .next s :=
  whenApplies_pos (applies_wsSkip.2 ⟨hw, hb⟩) _

/-- Settles O15: the marker and every other byte are two classes of their own, and the clear registers are the
invariant's clause for `WaitStart`. -/
theorem waitStartWatchesForTheMarker : Obligations.WaitStartWatchesForTheMarker := by
  intro s hw
  refine ⟨⟨decodeRaw_start hw, exec_wsStart hw⟩, fun b hb => ⟨decodeRaw_skip hw hb, exec_wsSkip hw hb⟩, ?_⟩
  rintro ⟨hclear, -⟩
  exact hclear hw

/-! ### The transition of a logical byte (R92 to R96) -/

section Transition

variable {c : Ctx} {v : Byte}

theorem decodeLogical_rlhByte (h : c.st = .readLengthHigh) : decodeLogical c v = .ok (.rlhByte v) := by
  simp only [decodeLogical, h]

theorem decodeLogical_rllAccept (h : c.st = .readLengthLow)
    (hL : (withLowLength c.len v).toNat ≤ c.maxLen.value) : decodeLogical c v = .ok (.rllAccept v) := by
  simp only [decodeLogical, h, if_pos (Ctx.lengthFits_iff.2 hL)]

theorem decodeLogical_rbStore (h : c.st = .readBody) (hr : 1 < c.rem.toNat) :
    decodeLogical c v = .ok (.rbStore v) := by
  simp only [decodeLogical, h, if_pos (Ctx.moreToCome_iff.2 hr)]

theorem decodeLogical_rbLast (h : c.st = .readBody) (hr : ¬ 1 < c.rem.toNat) :
    decodeLogical c v = .ok (.rbLast v) := by
  simp only [decodeLogical, h, if_neg (mt Ctx.moreToCome_iff.1 hr)]

end Transition

/-! ### The length field (R92, R93) -/

theorem highLength_toNat (v : Byte) : (highLength v).toNat = 256 * v.toNat := by
  have := v.isLt
  simp only [highLength, BitVec.toNat_shiftLeft, BitVec.toNat_setWidth, Nat.shiftLeft_eq]
  omega

/-- Where the low byte is still 0, putting the second length byte in is adding it. -/
theorem withLowLength_toNat {len : Half} (h : lengthLo len = 0) (v : Byte) :
    (withLowLength len v).toNat = len.toNat + v.toNat := by
  have hlen : len.toNat = 2 ^ 8 * (lengthHi len).toNat := by
    rw [← length_toNat len, h]
    rfl
  have hv : (v.setWidth 16).toNat = v.toNat := BitVec.toNat_setWidth_of_le (by decide)
  rw [withLowLength, BitVec.toNat_or, hv, hlen, Nat.two_pow_add_eq_or_of_lt v.isLt]

/-- Settles O16: the delivery in `ReadLengthHigh` has one outcome, whatever the byte is. -/
theorem highLengthByteIsShifted : Obligations.HighLengthByteIsShifted := by
  intro s v h
  have hd : decodeLogical s.ctx v = .ok (.rlhByte v) := decodeLogical_rlhByte h
  exact ⟨hd, highLength v, highLength_toNat v, (deliver_eq_exec hd).symm.trans (deliver_lengthHigh h)⟩

/-- Settles O17: the delivery of an accepted low byte; `L + 1` fits because `MAX_LEN` is at most 65534. -/
theorem acceptedLengthStartsTheBody : Obligations.AcceptedLengthStartsTheBody := by
  intro s v h L hL
  have hd : decodeLogical s.ctx v = .ok (.rllAccept v) := decodeLogical_rllAccept h hL
  exact ⟨hd, (deliver_eq_exec hd).symm.trans (deliver_accepted h hL), add_one_toNat hL,
    fun hlo => withLowLength_toNat hlo v⟩

/-! ### A byte of the counted span before the last (R95) -/

/-- Settles O19: the stored cell is the one written at `|buf|`, so the memory rules say what each read gives. -/
theorem bodyByteIsStoredSummedAndCounted : Obligations.BodyByteIsStoredSummedAndCounted := by
  intro s v h hr hb
  have hd : decodeLogical s.ctx v = .ok (.rbStore v) := decodeLogical_rbStore h hr
  have hsum : s.sum + v = BitVec.ofNat 8 (s.sum.toNat + v.toNat) := rfl
  have hcells : s.buf.contiguous →
      (s.buf.write s.buf.length v).contiguous ∧ (s.buf.write s.buf.length v).bytes = s.buf.bytes ++ [v] := by
    intro hc
    rw [Memory.write_length hc]
    exact ⟨Memory.contiguous_append hc v, Memory.bytes_append s.buf _ v⟩
  refine ⟨hd, s.buf.write s.buf.length v, ?_, sub_one_toNat (Nat.le_of_lt hr), Memory.read_write_same s.buf _ v,
    fun a ha => Memory.read_write_other s.buf v ha, hcells⟩
  rw [← deliver_eq_exec hd, deliver_stored h hr hb, hsum]

/-! ### The last byte of the span (R96 to R98) -/

section Completion

variable {c : Ctx} {v : Byte}

theorem decodeCompletion_doneBadCk (hv : v ≠ Config.ckBase - c.sum) : decodeCompletion c v = .doneBadCk v := by
  rw [decodeCompletion, if_neg (mt Ctx.sumMatches_iff.1 hv)]

theorem decodeCompletion_doneEmpty (hv : v = Config.ckBase - c.sum) (hlen : c.len = 0) :
    decodeCompletion c v = .doneEmpty v := by
  rw [decodeCompletion, if_pos (Ctx.sumMatches_iff.2 hv), if_pos hlen]

theorem decodeCompletion_doneOk (hv : v = Config.ckBase - c.sum) (hlen : c.len ≠ 0) :
    decodeCompletion c v = .doneOk v := by
  rw [decodeCompletion, if_pos (Ctx.sumMatches_iff.2 hv), if_neg hlen]

end Completion

/-- The last byte runs the completion it decodes to: RB_LAST and `decodeCompletion` test the same two conditions in the
same order. -/
theorem exec_rbLast {s : State} (h : s.st = .readBody) (hr : ¬ 1 < s.rem.toNat) (v : Byte) :
    exec (.rbLast v) s = exec (decodeCompletion s.ctx v) s := by
  change execRbLast v s = _
  rw [execRbLast, whenApplies_pos (applies_rbLast.2 ⟨h, hr⟩), decodeCompletion]
  cases s.ctx.sumMatches v with
  | false => rfl
  | true =>
    simp only [if_true, apply_ite (exec · s)]
    rfl

/-- Each of the three completions goes to the idle state with an event. -/
theorem rbLast_ends_idle {v : Byte} {s t : State} (h : execRbLast v s = .next t) :
    ∃ e, t = s.idleState.emit e := by
  obtain ⟨-, -, rfl | rfl | hok⟩ := rbLast_eq_next h
  · exact ⟨_, s.raise_frameError (by decide)⟩
  · exact ⟨_, s.raise_frameError (by decide)⟩
  · obtain ⟨-, -, -, ty, body, -, rfl⟩ := doneOk_eq_next hok
    exact ⟨_, rfl⟩

/-- A counter of 1 is the last byte's. -/
theorem not_one_lt_of_eq_one {r : Half} (h : r = 1) : ¬ 1 < r.toNat := by
  rw [h]
  decide

/-- Settles O20: the last byte runs the completion it decodes to (`exec_rbLast`), the three cases of which exclude each
other; under the invariant the read at completion succeeds, so one of them answers. -/
theorem lastByteCompletesTheFrame : Obligations.LastByteCompletesTheFrame := by
  intro s v h hrem
  have hr := not_one_lt_of_eq_one hrem
  refine ⟨decodeLogical_rbLast h hr, fun hv => ?_, fun hv hlen => ?_, fun hv hlen => ?_, fun hinv => ?_⟩
  · rw [exec_rbLast h hr, decodeCompletion_doneBadCk (c := s.ctx) hv]
  · rw [exec_rbLast h hr, decodeCompletion_doneEmpty (c := s.ctx) hv hlen]
  · rw [exec_rbLast h hr, decodeCompletion_doneOk (c := s.ctx) hv hlen]
  · obtain ⟨t, ht⟩ := rbLast_completes hinv h hr v
    obtain ⟨e, rfl⟩ := rbLast_ends_idle ht
    exact ⟨e, ht⟩

/-- The read at completion of a frame whose `L` bytes are all in place gives just those bytes. -/
theorem memRead_whole {s : State} (hc : s.buf.contiguous) (hlen : s.len.toNat = s.buf.length)
    (hmax : s.len.toNat ≤ s.maxLen.value) : memRead s 0 s.len.toNat = .ok s.buf.bytes := by
  rw [memRead_contiguous s hc 0 _ (by omega) (by omega), List.drop_zero, hlen, ← Memory.bytes_length,
    List.take_length]

/-- Settles O21: the read at completion gives the type byte and the body, and `packetOf` is the packet of the two. -/
theorem validFrameIsDeliveredAsAPacket : Obligations.ValidFrameIsDeliveredAsAPacket := by
  intro s t body c h hrem hv hc hbytes hlen hmax
  have hcount : s.buf.length = body.length + 1 := by rw [← Memory.bytes_length, hbytes, List.length_cons]
  have hne : s.len ≠ 0 := by
    intro h0
    rw [h0] at hlen
    cases hlen
  have hread : memRead s 0 s.len.toNat = .ok (t :: body) :=
    (memRead_whole hc (hlen.trans hcount.symm) hmax).trans (congrArg _ hbytes)
  exact doneOk_eq h (not_one_lt_of_eq_one hrem) hv hne hread

/-- Settles O22: DONE_BADCK raises `ChecksumError`, a frame error, whose recovery is the idle state. -/
theorem corruptFrameIsDiscarded : Obligations.CorruptFrameIsDiscarded := by
  intro s c h hrem hv
  exact (doneBadCk_eq h (not_one_lt_of_eq_one hrem) hv).trans
    (congrArg _ (s.raise_frameError (by decide)))

end Sys2Proof.Machine
end

section
/-! Unit PD: the tag of a type byte and the empty view of `Unknown` (43_dispatcher R110, R119). -/

namespace Sys2Proof.Machine

theorem exec_dispatch (t : Byte) (s : State) : exec (.dispatch t) s = .next (s.withResult (.tag (dispatchTag t))) := rfl

/-- The match of R110 is on the value of all eight bits: comparing the bytes is comparing their numbers. -/
theorem dispatchTag_eq_toNat (t : Byte) :
    dispatchTag t = if t.toNat = 0x90 then .receive else if t.toNat = 0x8B then .transmissionStatus
      else if t.toNat = 0x88 then .atResponse else if t.toNat = 0x97 then .remoteAtResponse else .unknown :=
  have h (c : Byte) : t = c ↔ t.toNat = c.toNat := BitVec.toNat_inj.symm
  if_congr (h Config.tReceive) rfl <| if_congr (h Config.tTxStatus) rfl <|
    if_congr (h Config.tAtResp) rfl <| if_congr (h Config.tRAtResp) rfl rfl

/-- Settles O31: DISPATCH drives `dispatchTag`, which is known as a match on numbers (`dispatchTag_eq_toNat`). -/
theorem dispatchMapsTheTypeByte : Obligations.DispatchMapsTheTypeByte := by
  intro s t
  rw [exec_dispatch, dispatchTag_eq_toNat]
  rfl

/-- No body is shorter than the minimum of `Unknown`, and its table of fields is empty. -/
@[simp] theorem view_unknown (body : List Byte) : view .unknown body = some [] :=
  if_neg (Nat.not_lt_zero body.length)

theorem exec_typeUnknown {t : Byte} (h90 : t ≠ Config.tReceive) (h8B : t ≠ Config.tTxStatus)
    (h88 : t ≠ Config.tAtResp) (h97 : t ≠ Config.tRAtResp) (body : List Byte) (s : State) :
    exec (.typeUnknown t body) s = .next (s.withResult (.variant .unknown (view .unknown body))) :=
  whenApplies_pos (applies_typeUnknown.2 ⟨h90, h8B, h88, h97⟩) _

theorem exec_typeRemoteAtRequestOutbound (body : List Byte) (s : State) :
    exec (.typeRemoteAtRequestOutbound body) s =
      .next (s.withResult (.variant .unknown (view .unknown body))) := rfl

/-- Settles O34: both rows drive the view of `Unknown`, which is empty for every body (`view_unknown`). -/
theorem unknownHasTheEmptyView : Obligations.UnknownHasTheEmptyView := by
  intro s t body
  refine ⟨fun h90 h8B h88 h97 => ?_, ?_⟩
  · rw [exec_typeUnknown h90 h8B h88 h97, view_unknown]
    rfl
  · rw [exec_typeRemoteAtRequestOutbound, view_unknown]
    rfl

end Sys2Proof.Machine
end

section
/-! Unit EN: what STUFF writes (44_reference_encoder R130). Each fact goes by the recursion of `stuffBytes`: the empty
sequence, an escapable byte first, another byte first. -/

namespace Sys2Proof.Machine

theorem exec_stuff (bs : List Byte) (s : State) :
    exec (.stuff bs) s = .next (s.withResult (.bytes (stuffBytes bs))) := rfl

theorem mem_escapable_iff {v : Byte} : v ∈ Config.escapable ↔ v = 0x7E ∨ v = 0x7D ∨ v = 0x11 ∨ v = 0x13 := by
  simp [Config.escapable]

/-- The second byte of a pair that STUFF writes is one of four. -/
theorem xorMask_mem_of_escapable {v : Byte} (h : v ∈ Config.escapable) :
    xorMask v ∈ ([0x5E, 0x5D, 0x31, 0x33] : List Byte) := by
  rcases mem_escapable_iff.1 h with rfl | rfl | rfl | rfl <;> decide

/-- The four second bytes are not escapable themselves. -/
theorem xorMask_not_escapable {v : Byte} (h : v ∈ Config.escapable) : xorMask v ∉ Config.escapable :=
  (by decide : ∀ y ∈ ([0x5E, 0x5D, 0x31, 0x33] : List Byte), y ∉ Config.escapable) _ (xorMask_mem_of_escapable h)

/-- R130's loop: the output is what each byte of the input adds, in order. -/
theorem stuffBytes_eq_flatten_map (bs : List Byte) :
    stuffBytes bs = (bs.map fun v =>
      if v = 0x7E ∨ v = 0x7D ∨ v = 0x11 ∨ v = 0x13 then [0x7D, v ^^^ 0x20] else [v]).flatten := by
  fun_induction stuffBytes bs with
  | case1 => rfl
  | case2 v vs hv ih =>
    rw [List.map_cons, List.flatten_cons, if_pos (mem_escapable_iff.1 hv), ih]
    rfl
  | case3 v vs hv ih =>
    rw [List.map_cons, List.flatten_cons, if_neg (mt mem_escapable_iff.2 hv), ih]
    rfl

/-- Of the escapable values only the marker occurs in the output. -/
theorem eq_escMark_of_mem_stuffBytes {bs : List Byte} {x : Byte} (hx : x ∈ stuffBytes bs)
    (he : x ∈ Config.escapable) : x = Config.escMark := by
  fun_induction stuffBytes bs with
  | case1 => cases hx
  | case2 v vs hv ih =>
    rcases List.mem_cons.1 hx with hmark | hx
    · exact hmark
    rcases List.mem_cons.1 hx with rfl | hx
    · exact absurd he (xorMask_not_escapable hv)
    · exact ih hx
  | case3 v vs hv ih =>
    rcases List.mem_cons.1 hx with rfl | hx
    · exact absurd he hv
    · exact ih hx

theorem notMem_stuffBytes {x : Byte} (he : x ∈ Config.escapable) (hx : x ≠ Config.escMark) (bs : List Byte) :
    x ∉ stuffBytes bs :=
  fun h => hx (eq_escMark_of_mem_stuffBytes h he)

theorem length_le_length_stuffBytes (bs : List Byte) : bs.length ≤ (stuffBytes bs).length := by
  fun_induction stuffBytes bs <;> simp only [List.length_cons, List.length_nil] <;> omega

theorem length_stuffBytes_le (bs : List Byte) : (stuffBytes bs).length ≤ 2 * bs.length := by
  fun_induction stuffBytes bs <;> simp only [List.length_cons, List.length_nil] <;> omega

/-- A marker in the output stands before one of the four second bytes, wherever the output is cut: the cut falls on the
marker of the first pair, on its second byte (which is no marker) or later, in what the rest of the input adds. -/
theorem stuffBytes_marker_opens_pair {bs xs ys : List Byte} (h : stuffBytes bs = xs ++ Config.escMark :: ys) :
    ∃ y zs, ys = y :: zs ∧ y ∈ ([0x5E, 0x5D, 0x31, 0x33] : List Byte) := by
  fun_induction stuffBytes bs generalizing xs with
  | case1 => exact absurd h.symm (by simp)
  | case2 v vs hv ih =>
    match xs with
    | [] => exact ⟨xorMask v, stuffBytes vs, (List.cons.inj h).2.symm, xorMask_mem_of_escapable hv⟩
    | [_] => exact absurd (List.cons.inj (List.cons.inj h).2).1 (xorMask_ne_escMark hv)
    | _ :: _ :: xs => exact ih (List.cons.inj (List.cons.inj h).2).2
  | case3 v vs hv ih =>
    match xs with
    | [] =>
      have hmark : v = Config.escMark := (List.cons.inj h).1
      exact absurd (mem_escapable_iff.2 (.inr (.inl hmark))) hv
    | _ :: xs => exact ih (List.cons.inj h).2

/-- Settles O40: STUFF drives `stuffBytes`, whose bytes, length and markers the lemmas above say. -/
theorem stuffReplacesEscapableBytes : Obligations.StuffReplacesEscapableBytes := fun s bs =>
  ⟨stuffBytes bs, exec_stuff bs s, stuffBytes_eq_flatten_map bs,
    notMem_stuffBytes (by decide) (by decide) bs, notMem_stuffBytes (by decide) (by decide) bs,
    notMem_stuffBytes (by decide) (by decide) bs,
    length_le_length_stuffBytes bs, length_stuffBytes_le bs, fun _ _ h => stuffBytes_marker_opens_pair h⟩

end Sys2Proof.Machine
end

section
/-! What an instruction can do, said once: the effect of each of the 46 rows, from which the frame statements of the
instructions follow (41_unstuffer, 42_reassembler, 40_checksum, 43_dispatcher, 60_exceptions). -/

namespace Sys2Proof.Machine

/-- The row of an error on `ev_err` (60_exceptions R140). -/
def errRow : ErrCode → Instr
  | .checksumError => .errChecksumError
  | .frameTooLarge => .errFrameTooLarge
  | .escapeSequenceError => .errEscapeSequenceError
  | .emptyFrame => .errEmptyFrame

/-- The formats of the byte-taking instructions, the completions among them. -/
def takesByte (f : Format) : Bool := f ∈ [Format.rawByte, .rawPair, .logicalByte, .completion]

/-- The instructions that only drive the units' output wires (log 6): four formats and the micro-operation CK_CHECK. -/
def drivesWires : Instr → Bool
  | .ckCheck _ _ => true
  | i => i.format ∈ [Format.function, .typeByte, .pseudo, .evTagCode]

/-- The ways an instruction that answers a next state can have changed the state. A delivery runs on the state whose
`esc` the unstuffer has already settled. -/
inductive Effect (i : Instr) (s t : State) : Prop
  | reset (hi : i = .reset) (ht : t = s.applyReset)
  | rested (hi : i.format = .inputItem) (ht : t = s)
  | skipped (hi : i.format = .rawByte) (hw : s.st = .waitStart) (ht : t = s)
  | started (hi : i.format = .rawByte) (hw : s.st = .waitStart) (ht : t = { s with st := .readLengthHigh })
  | escaped (hi : i = .unEsc) (hf : s.st ≠ .waitStart) (ht : t = s.setEsc)
  | delivered (hi : takesByte i.format = true) (hne : i ≠ .unEsc) (v : Byte) (e : Bool)
      (hd : Delivered v { s with esc := e } t)
  | framed (hi : i.format = .frame) (hw : s.st = .waitStart) (vs : List Byte)
      (hd : deliverAll vs { s with st := .readLengthHigh } = .next t)
  | droppedEscape (hi : i = .unEos) (he : s.esc = true) (ht : t = s.raise .escapeSequenceError)
  | raised (e : ErrCode) (hi : i = errRow e) (ht : t = s.raise e)
  | summed (hi : i = .ckClear ∨ ∃ v, i = .ckAdd v) (w : Byte) (ht : t = { s with sum := w })
  | drove (hi : drivesWires i = true) (r : Result) (ht : t = s.withResult r)

/-! ### The effect of each row that has a condition -/

theorem execWsStart_eq_next {s t : State} (h : execWsStart s = .next t) :
    s.st = .waitStart ∧ t = { s with st := .readLengthHigh } := by
  obtain ⟨ha, h⟩ := whenApplies_eq_next.1 h
  cases h
  exact ⟨applies_wsStart.1 ha, rfl⟩

theorem execWsSkip_eq_next {b : Byte} {s t : State} (h : execWsSkip b s = .next t) :
    s.st = .waitStart ∧ t = s := by
  obtain ⟨ha, h⟩ := whenApplies_eq_next.1 h
  cases h
  exact ⟨(applies_wsSkip.1 ha).1, rfl⟩

theorem execUnEsc_eq_next {s t : State} (h : execUnEsc s = .next t) : s.st ≠ .waitStart ∧ t = s.setEsc := by
  obtain ⟨ha, h⟩ := whenApplies_eq_next.1 h
  cases h
  exact ⟨applies_unEsc.1 ha, rfl⟩

theorem unBypass_effect {b : Byte} {s t : State} (h : execUnBypass b s = .next t) : Effect (.unBypass b) s t := by
  obtain ⟨-, h⟩ := whenApplies_eq_next.1 h
  split at h
  · obtain ⟨hw, ht⟩ := execWsStart_eq_next h
    exact .started rfl hw ht
  · obtain ⟨hw, ht⟩ := execWsSkip_eq_next h
    exact .skipped rfl hw ht

theorem execUnEos_eq_next {s t : State} (h : execUnEos s = .next t) :
    s.esc = true ∧ t = s.raise .escapeSequenceError ∨ s.esc = false ∧ t = s := by
  unfold execUnEos at h
  cases he : s.esc <;> rw [he] at h <;> cases h
  · exact .inr ⟨rfl, rfl⟩
  · exact .inl ⟨rfl, rfl⟩

theorem unEos_effect {s t : State} (h : execUnEos s = .next t) : Effect .unEos s t := by
  obtain ⟨he, ht⟩ | ⟨-, ht⟩ := execUnEos_eq_next h
  · exact .droppedEscape rfl he ht
  · exact .rested rfl ht

/-- UN_XOR delivers at `esc = 0`. -/
theorem unXor_delivered {b : Byte} {s t : State} (h : execUnXor b s = .next t) :
    Delivered (xorMask b) s.clearEsc t :=
  deliver_delivered (whenApplies_eq_next.1 h).2

theorem unPass_delivered {b : Byte} {s t : State} (h : execUnPass b s = .next t) : Delivered b s t :=
  deliver_delivered (whenApplies_eq_next.1 h).2

/-- A raw-pair row is its pair, where its rule applies. -/
theorem pair_delivered {i : Instr} {b : Byte} {s t : State} (h : whenApplies i s (escapedPair b s) = .next t) :
    Delivered (xorMask b) s.clearEsc t :=
  (escapedPair_delivered (whenApplies_eq_next.1 h).2).2

theorem doneBadCk_delivered {c : Byte} {s t : State} (h : execDoneBadCk c s = .next t) : Delivered c s t := by
  obtain ⟨ha, h⟩ := whenApplies_eq_next.1 h
  obtain ⟨⟨hst, hr⟩, -⟩ := applies_doneBadCk.1 ha
  cases h
  exact .corrupt hst hr rfl

theorem doneEmpty_delivered {c : Byte} {s t : State} (h : execDoneEmpty c s = .next t) : Delivered c s t := by
  obtain ⟨ha, h⟩ := whenApplies_eq_next.1 h
  obtain ⟨⟨hst, hr⟩, -⟩ := applies_doneEmpty.1 ha
  cases h
  exact .empty hst hr rfl

theorem doneOk_delivered {c : Byte} {s t : State} (h : execDoneOk c s = .next t) : Delivered c s t := by
  obtain ⟨hst, hr, hc, ty, body, hm, ht⟩ := doneOk_eq_next h
  exact .packet hst hr hc ty body hm ht

/-- FRAME is a start marker and logical bytes: the two length bytes, and the span if the length was accepted. -/
theorem frame_effect {len : Half} {span : List Byte} {s t : State} (h : execFrame len span s = .next t) :
    Effect (.frame len span) s t := by
  obtain ⟨-, h⟩ := whenApplies_eq_next.1 h
  obtain ⟨s₁, h₁, h⟩ := andThen_eq_next.1 h
  obtain ⟨hw, rfl⟩ := execWsStart_eq_next h₁
  obtain ⟨s₂, h₂, h⟩ := andThen_eq_next.1 h
  split at h
  · refine .framed rfl hw ([lengthHi len, lengthLo len] ++ span) ?_
    rw [deliverAll_append, h₂, andThen_next, h]
  · cases h
    exact .framed rfl hw _ h₂

/-- A row that drives a result where its rule applies. -/
theorem whenApplies_withResult {i : Instr} {r : Result} {s t : State}
    (h : whenApplies i s (.next (s.withResult r)) = .next t) : t = s.withResult r := by
  obtain ⟨-, h⟩ := whenApplies_eq_next.1 h
  cases h
  rfl

/-- Everything an instruction that answers a next state can do. -/
theorem exec_effect {i : Instr} {s t : State} (h : exec i s = .next t) : Effect i s t := by
  cases i with
  | reset => cases h; exact .reset rfl rfl
  | unEos => exact unEos_effect h
  | noByte => cases h; exact .rested rfl rfl
  | wsStart => exact .started rfl (execWsStart_eq_next h).1 (execWsStart_eq_next h).2
  | wsSkip b => exact .skipped rfl (execWsSkip_eq_next h).1 (execWsSkip_eq_next h).2
  | unBypass b => exact unBypass_effect h
  | unEsc => exact .escaped rfl (execUnEsc_eq_next h).1 (execUnEsc_eq_next h).2
  | unXor b => exact .delivered rfl nofun _ _ (unXor_delivered h)
  | unPass b => exact .delivered rfl nofun _ _ (unPass_delivered h)
  | escPair7E => exact .delivered rfl nofun _ _ (pair_delivered h)
  | escPair7D => exact .delivered rfl nofun _ _ (pair_delivered h)
  | escPair11 => exact .delivered rfl nofun _ _ (pair_delivered h)
  | escPair13 => exact .delivered rfl nofun _ _ (pair_delivered h)
  | escPairAny b => exact .delivered rfl nofun _ _ (pair_delivered h)
  | rlhByte v => exact .delivered rfl nofun _ _ (rlhByte_delivered h)
  | rllAccept v => exact .delivered rfl nofun _ _ (rllAccept_delivered h)
  | rllTooLarge v => exact .delivered rfl nofun _ _ (rllTooLarge_delivered h)
  | rbStore v => exact .delivered rfl nofun _ _ (rbStore_delivered h)
  | rbLast v => exact .delivered rfl nofun _ _ (rbLast_delivered h)
  | doneOk c => exact .delivered rfl nofun _ _ (doneOk_delivered h)
  | doneBadCk c => exact .delivered rfl nofun _ _ (doneBadCk_delivered h)
  | doneEmpty c => exact .delivered rfl nofun _ _ (doneEmpty_delivered h)
  | ckClear => cases h; exact .summed (.inl rfl) _ rfl
  | ckAdd v => cases h; exact .summed (.inr ⟨v, rfl⟩) _ rfl
  | ckValue src => cases h; exact .drove rfl _ rfl
  | ckCheck src c => cases h; exact .drove rfl _ rfl
  | frame len span => exact frame_effect h
  | typeReceive body => cases h; exact .drove rfl _ rfl
  | typeTransmissionStatus body => cases h; exact .drove rfl _ rfl
  | typeAtResponse body => cases h; exact .drove rfl _ rfl
  | typeRemoteAtResponse body => cases h; exact .drove rfl _ rfl
  | typeRemoteAtRequestOutbound body => cases h; exact .drove rfl _ rfl
  | typeUnknown t body => exact .drove rfl _ (whenApplies_withResult h)
  | dispatch t => cases h; exact .drove rfl _ rfl
  | stuff bs => cases h; exact .drove rfl _ rfl
  | frameEnc t body => exact .drove rfl _ (whenApplies_withResult h)
  | frameRawLen t body => exact .drove rfl _ (whenApplies_withResult h)
  | errChecksumError => cases h; exact .raised .checksumError rfl rfl
  | errFrameTooLarge => cases h; exact .raised .frameTooLarge rfl rfl
  | errEscapeSequenceError => cases h; exact .raised .escapeSequenceError rfl rfl
  | errEmptyFrame => cases h; exact .raised .emptyFrame rfl rfl
  | tagUnknown => cases h; exact .drove rfl _ rfl
  | tagReceive => cases h; exact .drove rfl _ rfl
  | tagTransmissionStatus => cases h; exact .drove rfl _ rfl
  | tagAtResponse => cases h; exact .drove rfl _ rfl
  | tagRemoteAtResponse => cases h; exact .drove rfl _ rfl

end Sys2Proof.Machine
end

section
/-! The frame of the instructions: what none of them touches, what the byte-taking ones store, what the others leave
alone; where they complete and where they stop (20_memory R31, 70_reset R162, 10_state R19, log 7). -/

namespace Sys2Proof.Machine

/-! ### What every instruction keeps -/

/-- What every delivery keeps, logical bytes one after the other keep. -/
theorem deliverAll_keeps {P : State → Prop} (hP : ∀ {v s t}, P s → Delivered v s t → P t) {vs : List Byte}
    {s t : State} (hs : P s) (h : deliverAll vs s = .next t) : P t := by
  induction vs generalizing s with
  | nil =>
    cases h
    exact hs
  | cons v vs ih =>
    obtain ⟨u, hu, h⟩ := andThen_eq_next.1 h
    exact ih (hP hs (deliver_delivered hu)) h

/-- `t` has the environment's side and `MAX_LEN` of `s`. -/
structure SameEnvironment (s t : State) : Prop where
  maxLen : t.maxLen = s.maxLen
  delivered : t.delivered = s.delivered
  input : t.input = s.input
  evReady : t.evReady = s.evReady

theorem SameEnvironment.trans {s t u : State} (h : SameEnvironment s t) (h' : SameEnvironment t u) :
    SameEnvironment s u :=
  ⟨h'.maxLen.trans h.maxLen, h'.delivered.trans h.delivered, h'.input.trans h.input, h'.evReady.trans h.evReady⟩

theorem Delivered.result {v : Byte} {s t : State} (h : Delivered v s t) : t.result = s.result := by
  obtain ⟨-, -, -, -, hres⟩ := h.environment
  exact hres

theorem Delivered.sameEnvironment {v : Byte} {s t : State} (h : Delivered v s t) : SameEnvironment s t := by
  obtain ⟨hm, hd, hi, hr, -⟩ := h.environment
  exact ⟨hm, hd, hi, hr⟩

theorem State.raise_sameEnvironment (s : State) (e : ErrCode) : SameEnvironment s (s.raise e) :=
  ⟨s.raise_maxLen e, s.raise_delivered e, s.raise_input e, s.raise_evReady e⟩

/-- No instruction touches the environment's side (70_reset R162). -/
theorem exec_sameEnvironment {i : Instr} {s t : State} (h : exec i s = .next t) : SameEnvironment s t := by
  cases exec_effect h with
  | reset _ ht | rested _ ht | skipped _ _ ht | started _ _ ht | escaped _ _ ht | summed _ _ ht | drove _ _ ht =>
    subst ht
    exact ⟨rfl, rfl, rfl, rfl⟩
  | delivered _ _ _ _ hd =>
    obtain ⟨hm, hd, hi, hr, -⟩ := hd.environment
    exact ⟨hm, hd, hi, hr⟩
  | framed _ _ _ hd =>
    refine deliverAll_keeps (P := SameEnvironment s) (fun hs h => hs.trans h.sameEnvironment) ?_ hd
    exact ⟨rfl, rfl, rfl, rfl⟩
  | droppedEscape _ _ ht | raised _ _ ht =>
    subst ht
    exact s.raise_sameEnvironment _

/-- An instruction that neither resets nor drives a result leaves the output wires alone. -/
theorem exec_result {i : Instr} {s t : State} (hreset : i ≠ .reset)
    (hdrive : drivesWires i ≠ true) (h : exec i s = .next t) :
    t.result = s.result := by
  cases exec_effect h with
  | reset hi => exact absurd hi hreset
  | rested _ ht | skipped _ _ ht | started _ _ ht | escaped _ _ ht | summed _ _ ht =>
    subst ht
    rfl
  | delivered _ _ _ _ hd => exact hd.result
  | framed _ _ _ hd =>
    refine deliverAll_keeps (P := fun u => u.result = s.result) (fun hs hd => hd.result.trans hs) ?_ hd
    rfl
  | droppedEscape _ _ ht | raised _ _ ht =>
    subst ht
    exact s.raise_result _
  | drove hi => exact absurd hi hdrive

/-! ### The functions -/

theorem drivesWires_iff {i : Instr} : drivesWires i = true ↔
    i.format ∈ [Format.function, .typeByte, .pseudo, .evTagCode] ∨ ∃ src c, i = .ckCheck src c := by
  unfold drivesWires
  split
  · simp
  · rename_i hne
    have hnot : ¬ ∃ src c, i = .ckCheck src c := fun ⟨src, c, h⟩ => hne src c h
    rw [decide_eq_true_eq, or_iff_left hnot]

theorem drivesWires_format {i : Instr} (h : drivesWires i = true) :
    i.format ∈ [Format.microOp, .function, .typeByte, .pseudo, .evTagCode] := by
  obtain hf | ⟨src, c, rfl⟩ := drivesWires_iff.1 h
  · exact List.mem_cons_of_mem _ hf
  · exact List.mem_cons_self

theorem takesByte_iff {i : Instr} : takesByte i.format = true ↔
    i.format = .rawByte ∨ i.format = .rawPair ∨ i.format = .logicalByte ∨ i.format = .completion := by
  simp [takesByte]

/-- No instruction both takes a byte and drives a result. -/
theorem not_drivesWires_of_takesByte {i : Instr} (h : takesByte i.format = true) : drivesWires i ≠ true := by
  intro hd
  have hformat := drivesWires_format hd
  obtain hrow | hrow | hrow | hrow := takesByte_iff.1 h <;> simp [hrow] at hformat

/-- The rows of these formats, CK_CLEAR and CK_ADD drive nothing. -/
theorem not_drivesWires {i : Instr}
    (h : i.format ∈ [Format.inputItem, .rawByte, .rawPair, .logicalByte, .completion, .frame, .evErrCode] ∨
      i = .ckClear ∨ ∃ v, i = .ckAdd v) : drivesWires i ≠ true := by
  obtain hrow | rfl | ⟨v, rfl⟩ := h
  · intro hd
    have hformat := drivesWires_format hd
    simp only [List.mem_cons, List.not_mem_nil, or_false] at hrow
    obtain hrow | hrow | hrow | hrow | hrow | hrow | hrow := hrow <;> simp [hrow] at hformat
  · nofun
  · nofun

/-- Of an instruction that drives a result that is the one possible effect. -/
theorem exec_drives {i : Instr} {s t : State} (hi : drivesWires i = true) (h : exec i s = .next t) :
    ∃ r, t = s.withResult r := by
  have hformat := drivesWires_format hi
  cases exec_effect h with
  | drove _ r ht => exact ⟨r, ht⟩
  | reset hrow | escaped hrow | droppedEscape hrow =>
    subst hrow
    cases hi
  | raised e hrow => cases e <;> (subst hrow; cases hi)
  | summed hrow =>
    obtain rfl | ⟨v, rfl⟩ := hrow <;> cases hi
  | rested hrow | skipped hrow | started hrow | framed hrow => simp [hrow] at hformat
  | delivered hrow => exact absurd hi (not_drivesWires_of_takesByte hrow)

/-- Settles O52: the one effect such an instruction can have is on the wires (`exec_drives`). -/
theorem functionsChangeOnlyTheOutputWires : Obligations.FunctionsChangeOnlyTheOutputWires := by
  intro i s t hi h
  obtain ⟨r, rfl⟩ := exec_drives (drivesWires_iff.2 hi) h
  exact ⟨rfl, fun _ => rfl⟩

/-! ### The buffer -/

theorem Delivered.wf {v : Byte} {s t : State} (h : Delivered v s t) (hs : s.buf.wf = true) : t.buf.wf = true := by
  cases h with
  | lengthHigh _ ht => rw [ht]; exact hs
  | stored _ _ _ ht => rw [ht]; exact Memory.write_wf _ _ _ hs
  | accepted _ _ ht | tooLarge _ _ ht | corrupt _ _ ht | empty _ _ ht | packet _ _ _ _ _ _ ht => rw [ht]; rfl

theorem State.raise_wf {s : State} (hs : s.buf.wf = true) (e : ErrCode) : (s.raise e).buf.wf = true := by
  cases e with
  | escapeSequenceError => exact hs
  | checksumError | frameTooLarge | emptyFrame => rfl

/-- Settles O55: the buffer is kept, emptied, or written at one index at a time. -/
theorem bufferKeepsItsCanonicalForm : Obligations.BufferKeepsItsCanonicalForm := by
  intro i s t hs h
  cases exec_effect h with
  | reset _ ht => rw [ht]; rfl
  | rested _ ht | skipped _ _ ht | started _ _ ht | escaped _ _ ht | summed _ _ ht | drove _ _ ht => rw [ht]; exact hs
  | delivered _ _ _ _ hd => exact hd.wf hs
  | framed _ _ _ hd => exact deliverAll_keeps (P := fun u => u.buf.wf = true) (fun hs hd => hd.wf hs) (by exact hs) hd
  | droppedEscape _ _ ht | raised _ _ ht => rw [ht]; exact State.raise_wf hs _

/-- Before the last byte of the span a delivery stores: it has no other way to end there (42_reassembler R95). -/
theorem Delivered.stores {v : Byte} {s t : State} (h : Delivered v s t) (hst : s.st = .readBody)
    (hr : 1 < s.rem.toNat) :
    t = { s with buf := s.buf.write s.buf.length v, sum := s.sum + v, rem := s.rem - 1 } := by
  cases h with
  | stored _ _ _ ht => exact ht
  | lengthHigh h | accepted h | tooLarge h => simp [hst] at h
  | corrupt _ h | empty _ h | packet _ h => exact absurd hr h

/-- Settles O53: in the counted span a byte-taking instruction delivers, and so stores at `|buf|`, or is UN_ESC, which
touches `esc` only; the rows of `WaitStart` do not apply there. -/
theorem byteTakersStoreOnlyAtTheWriteIndex : Obligations.ByteTakersStoreOnlyAtTheWriteIndex := by
  intro i s t hformat hst hr h
  have hi : takesByte i.format = true := by
    obtain h | h | h : i.format = .rawByte ∨ i.format = .rawPair ∨ i.format = .logicalByte := by
      simpa using hformat
    all_goals simp [takesByte, h]
  cases exec_effect h with
  | delivered _ hne v e hd =>
    have ht := hd.stores hst hr
    subst ht
    exact ⟨fun a ha => Memory.read_write_other s.buf v ha, hst, rfl, rfl, fun h => absurd h hne,
      fun _ => ⟨rfl, v, Memory.read_write_same s.buf _ v, rfl⟩⟩
  | escaped hrow _ ht =>
    subst ht
    exact ⟨fun _ _ => rfl, hst, rfl, rfl, fun _ => ⟨rfl, rfl, rfl⟩, fun hne => absurd hrow hne⟩
  | skipped _ hw | started _ hw | framed _ hw => simp [hst] at hw
  | reset hrow | droppedEscape hrow =>
    subst hrow
    cases hi
  | raised e hrow => cases e <;> (subst hrow; cases hi)
  | summed hrow => obtain rfl | ⟨v, rfl⟩ := hrow <;> cases hi
  | rested hrow => simp [hrow, takesByte] at hi
  | drove hrow => exact absurd hrow (not_drivesWires_of_takesByte hi)

theorem execUnBypass_eq_next {b : Byte} {s t : State} (h : execUnBypass b s = .next t) :
    t = { s with st := t.st } := by
  obtain ⟨-, h⟩ := whenApplies_eq_next.1 h
  split at h
  · obtain ⟨-, rfl⟩ := execWsStart_eq_next h
    rfl
  · obtain ⟨-, rfl⟩ := execWsSkip_eq_next h
    rfl

/-- Settles O54: each of these rows keeps the state or sets registers other than `rem` and the buffer; the
statement's conditions name the two micro-operations, RLH_BYTE and the two rows that output an event. -/
theorem nonStoringInstructionsKeepTheBuffer : Obligations.NonStoringInstructionsKeepTheBuffer := by
  intro i s t hi h
  simp only [List.mem_cons, List.not_mem_nil, or_false] at hi
  obtain (rfl | rfl | rfl | rfl | rfl | rfl) | ⟨b, rfl | rfl | rfl | rfl⟩ := hi
  · obtain ⟨-, rfl⟩ | ⟨-, rfl⟩ := execUnEos_eq_next h <;>
      exact ⟨fun _ => rfl, rfl, fun _ => rfl, nofun, fun _ => rfl, fun hne => absurd rfl hne⟩
  · cases h
    exact ⟨fun _ => rfl, rfl, fun _ => rfl, nofun, fun _ => rfl, fun _ _ => rfl⟩
  · obtain ⟨-, rfl⟩ := execWsStart_eq_next h
    exact ⟨fun _ => rfl, rfl, fun _ => rfl, nofun, fun _ => rfl, fun _ _ => rfl⟩
  · obtain ⟨-, rfl⟩ := execUnEsc_eq_next h
    exact ⟨fun _ => rfl, rfl, fun _ => rfl, nofun, fun _ => rfl, fun _ _ => rfl⟩
  · cases h
    exact ⟨fun _ => rfl, rfl, fun hne => absurd rfl hne, fun _ => ⟨rfl, rfl⟩, fun _ => rfl, fun _ _ => rfl⟩
  · cases h
    exact ⟨fun _ => rfl, rfl, fun _ => rfl, nofun, fun _ => rfl, fun _ hne => absurd rfl hne⟩
  · obtain ⟨-, rfl⟩ := execWsSkip_eq_next h
    exact ⟨fun _ => rfl, rfl, fun _ => rfl, nofun, fun _ => rfl, fun _ _ => rfl⟩
  · rw [execUnBypass_eq_next h]
    exact ⟨fun _ => rfl, rfl, fun _ => rfl, nofun, fun _ => rfl, fun _ _ => rfl⟩
  · obtain ⟨-, h⟩ := whenApplies_eq_next.1 h
    cases h
    exact ⟨fun _ => rfl, rfl, fun _ => rfl, nofun, fun hne => absurd rfl (hne b), fun _ _ => rfl⟩
  · cases h
    exact ⟨fun _ => rfl, rfl, fun hne => absurd rfl hne, fun _ => ⟨rfl, rfl⟩, fun _ => rfl, fun _ _ => rfl⟩

/-! ### Where an instruction completes and where it stops -/

/-- Every meaning is guarded by its rule's condition; where there is none the guard is always open. -/
theorem exec_guarded (i : Instr) (s : State) : ∃ k, exec i s = whenApplies i s k := by
  cases i <;> exact ⟨_, rfl⟩

/-- Settles O46: every meaning is guarded by its rule's condition (`exec_guarded`). -/
theorem outsideItsRuleAnInstructionStops : Obligations.OutsideItsRuleAnInstructionStops := by
  intro i s h
  obtain ⟨k, hk⟩ := exec_guarded i s
  rw [hk, whenApplies_neg h]

end Sys2Proof.Machine
end

section
/-! Logical bytes one after the other: a delivery keeps the invariant; bytes of the counted span before the last are
stored in order; the last one completes the frame; so FRAME has one outcome and every applicable instruction completes
(30_encoding R50 to R53, 42_reassembler R91 to R99, 10_state R19). -/

namespace Sys2Proof.Machine

/-! ### The invariant -/

/-- The idle state meets the invariant, whatever event goes with it. -/
theorem State.idleState_emit_inv (s : State) (e : Event) : (s.idleState.emit e).Inv :=
  ⟨fun _ => ⟨rfl, rfl, rfl, rfl, rfl⟩, nofun, nofun, nofun⟩

/-- In a frame the invariant does not speak of `esc`. -/
theorem State.Inv.withEsc {s : State} (h : s.Inv) (hf : s.st ≠ .waitStart) (e : Bool) :
    State.Inv { s with esc := e } := by
  obtain ⟨-, hh, hl, hb⟩ := h
  exact ⟨fun hw => absurd hw hf, hh, hl, hb⟩

theorem withLowLength_zero (len : Half) : withLowLength len 0 = len := BitVec.or_zero

theorem lengthLo_highLength (v : Byte) : lengthLo (highLength v) = 0 := by
  rw [← withLowLength_zero (highLength v)]
  exact lengthLo_assemble v 0

/-- Only in a frame is there a delivery. -/
theorem Delivered.inFrame {v : Byte} {s t : State} (h : Delivered v s t) : s.st ≠ .waitStart := by
  cases h <;> simp [*]

/-- The state in which the counted span of `L` bytes and the checksum begins (42_reassembler R93). -/
def State.startBody (s : State) (L : Half) : State :=
  { s with st := .readBody, len := L, rem := L + 1, sum := 0, buf := [] }

theorem State.startBody_inv {s : State} {L : Half} (hL : L.toNat ≤ s.maxLen.value) : (s.startBody L).Inv := by
  have hrem : (L + 1).toNat = L.toNat + 1 := add_one_toNat hL
  exact ⟨nofun, nofun, nofun, fun _ => ⟨hL, hrem ▸ Nat.le_add_left 1 _, hrem.le,
    (Nat.sub_eq_zero_of_le hrem.ge).symm, rfl, rfl⟩⟩

/-- A delivery keeps the invariant (10_state R19). -/
theorem Delivered.inv {v : Byte} {s t : State} (h : Delivered v s t) (hs : s.Inv) : t.Inv := by
  obtain ⟨-, hhigh, hlow, hbody⟩ := hs
  cases h with
  | lengthHigh hst ht =>
    obtain ⟨-, hrem, hsum, hbuf⟩ := hhigh hst
    subst ht
    exact ⟨nofun, nofun, fun _ => ⟨lengthLo_highLength v, hrem, hsum, hbuf⟩, nofun⟩
  | accepted hst hL ht =>
    rw [ht]
    exact State.startBody_inv hL
  | stored hst hr hb ht =>
    obtain ⟨hmax, -, hle, hcount, hcells, hsum⟩ := hbody hst
    have hrem := sub_one_toNat (Nat.le_of_lt hr)
    have hw := Memory.write_length hcells v
    subst ht
    refine ⟨by simp [hst], by simp [hst], by simp [hst], fun _ => ⟨hmax, ?_, ?_, ?_, ?_, ?_⟩⟩
    · show 1 ≤ (s.rem - 1).toNat
      omega
    · show (s.rem - 1).toNat ≤ s.len.toNat + 1
      omega
    · show (s.buf.write s.buf.length v).length = s.len.toNat + 1 - (s.rem - 1).toNat
      rw [hw, List.length_append, List.length_singleton]
      omega
    · rw [hw]
      exact Memory.contiguous_append hcells v
    · rw [hw, Memory.bytes_append, sumMod_append_singleton, hsum]
  | tooLarge _ _ ht | corrupt _ _ ht | empty _ _ ht =>
    rw [ht, State.raise_frameError _ (by decide)]
    exact s.idleState_emit_inv _
  | packet _ _ _ _ _ _ ht =>
    rw [ht]
    exact s.idleState_emit_inv _

/-! ### Bytes of the counted span before the last -/

/-- `t` is `s` after the bytes `vs` of the counted span have been stored, and nothing else but `esc` and the input side
has changed (42_reassembler R95). -/
structure Stored (s : State) (vs : List Byte) (t : State) : Prop where
  st : t.st = s.st
  len : t.len = s.len
  maxLen : t.maxLen = s.maxLen
  event : t.event = s.event
  delivered : t.delivered = s.delivered
  evReady : t.evReady = s.evReady
  result : t.result = s.result
  cells : t.buf.contiguous
  bytes : t.buf.bytes = s.buf.bytes ++ vs
  sum : s.sum = sumMod s.buf.bytes → t.sum = sumMod t.buf.bytes
  rem : t.rem.toNat + vs.length = s.rem.toNat

theorem Stored.length {s t : State} {vs : List Byte} (h : Stored s vs t) : t.buf.length = s.buf.length + vs.length := by
  rw [← Memory.bytes_length, h.bytes, List.length_append, Memory.bytes_length]

theorem Stored.trans {s t u : State} {vs ws : List Byte} (h : Stored s vs t) (h' : Stored t ws u) :
    Stored s (vs ++ ws) u where
  st := h'.st.trans h.st
  len := h'.len.trans h.len
  maxLen := h'.maxLen.trans h.maxLen
  event := h'.event.trans h.event
  delivered := h'.delivered.trans h.delivered
  evReady := h'.evReady.trans h.evReady
  result := h'.result.trans h.result
  cells := h'.cells
  bytes := by rw [h'.bytes, h.bytes, List.append_assoc]
  sum := fun hs => h'.sum (h.sum hs)
  rem := by rw [List.length_append, Nat.add_comm vs.length, ← Nat.add_assoc, h'.rem, h.rem]

/-- Nothing stored: only `esc` and the input side may differ. -/
theorem Stored.nil {s : State} (hc : s.buf.contiguous) (e : Bool) (ps : List Pins) :
    Stored s [] { s with esc := e, input := ps } where
  st := rfl
  len := rfl
  maxLen := rfl
  event := rfl
  delivered := rfl
  evReady := rfl
  result := rfl
  cells := hc
  bytes := (List.append_nil _).symm
  sum := id
  rem := rfl

/-- A delivery before the last byte of the span stores it. -/
theorem deliver_stores {s : State} {v : Byte} (hst : s.st = .readBody) (hc : s.buf.contiguous) (hr : 1 < s.rem.toNat)
    (hroom : s.buf.length ≤ s.maxLen.value) :
    ∃ t, deliver v s = .next t ∧ Stored s [v] t ∧ t.input = s.input ∧ t.esc = s.esc := by
  refine ⟨_, deliver_stored hst hr hroom, ?_, rfl, rfl⟩
  have hw := Memory.write_length hc v
  exact {
    st := rfl
    len := rfl
    maxLen := rfl
    event := rfl
    delivered := rfl
    evReady := rfl
    result := rfl
    cells := by rw [hw]; exact Memory.contiguous_append hc v
    bytes := by rw [hw, Memory.bytes_append]
    sum := fun hs => by rw [hw, Memory.bytes_append, sumMod_append_singleton, hs]
    rem := sub_one_toNat (Nat.le_of_lt hr) }

/-- Logical bytes that leave the last one of the span to come are stored in order. -/
theorem deliverAll_stores {s : State} {vs : List Byte} (hst : s.st = .readBody) (hc : s.buf.contiguous)
    (hr : vs.length < s.rem.toNat) (hroom : s.buf.length + vs.length ≤ s.maxLen.value + 1) :
    ∃ t, deliverAll vs s = .next t ∧ Stored s vs t ∧ t.input = s.input ∧ t.esc = s.esc := by
  induction vs generalizing s with
  | nil => exact ⟨s, rfl, .nil hc s.esc s.input, rfl, rfl⟩
  | cons v vs ih =>
    rw [List.length_cons] at hr hroom
    obtain ⟨u, hu, hsu, hui, hue⟩ := deliver_stores (v := v) hst hc (by omega) (by omega)
    have hlen := hsu.length
    have hrem := hsu.rem
    rw [List.length_singleton] at hlen hrem
    obtain ⟨t, ht, hut, hti, hte⟩ := ih (hsu.st.trans hst) hsu.cells (by omega) (by rw [hsu.maxLen]; omega)
    refine ⟨t, ?_, hsu.trans hut, hti.trans hui, hte.trans hue⟩
    rw [deliverAll, hu, andThen_next, ht]

/-! ### The two length bytes -/

theorem deliverAll_length {s : State} (hst : s.st = .readLengthHigh) (L : Half) :
    deliverAll [lengthHi L, lengthLo L] s =
      if L.toNat ≤ s.maxLen.value then .next (s.startBody L)
      else .next (s.idleState.emit (.error .frameTooLarge)) := by
  have hL : withLowLength (highLength (lengthHi L)) (lengthLo L) = L := assembleLength_bytes L
  rw [deliverAll, deliver_lengthHigh hst, andThen_next, deliverAll]
  split
  · rw [deliver_accepted rfl (by rwa [hL])]
    simp only [hL, andThen_next, deliverAll, State.startBody]
  · rw [deliver_tooLarge rfl (by rw [hL]; exact Nat.not_le.1 ‹_›), State.raise_frameError _ (by decide)]
    rfl

/-! ### The last byte of the span -/

/-- A wrong checksum discards the frame (42_reassembler R98). -/
theorem deliver_corrupt {s : State} {v : Byte} (hst : s.st = .readBody) (hr : ¬ 1 < s.rem.toNat)
    (hv : v ≠ Config.ckBase - s.sum) : deliver v s = .next (s.idleState.emit (.error .checksumError)) := by
  rw [deliver_last hst hr]
  exact (exec_rbLast hst hr v).trans <| by
    rw [decodeCompletion_doneBadCk (c := s.ctx) hv]
    exact (doneBadCk_eq hst hr hv).trans (congrArg _ (s.raise_frameError (by decide)))

/-- A valid frame without a type byte (42_reassembler R99). -/
theorem deliver_empty {s : State} {v : Byte} (hst : s.st = .readBody) (hr : ¬ 1 < s.rem.toNat)
    (hv : v = Config.ckBase - s.sum) (hlen : s.len = 0) :
    deliver v s = .next (s.idleState.emit (.error .emptyFrame)) := by
  rw [deliver_last hst hr]
  exact (exec_rbLast hst hr v).trans <| by
    rw [decodeCompletion_doneEmpty (c := s.ctx) hv hlen]
    exact (doneEmpty_eq hst hr hv hlen).trans (congrArg _ (s.raise_frameError (by decide)))

/-- A valid frame goes out as a packet (42_reassembler R97). -/
theorem deliver_packet {s : State} {v ty : Byte} {body : List Byte} (hst : s.st = .readBody)
    (hr : ¬ 1 < s.rem.toNat) (hv : v = Config.ckBase - s.sum) (hlen : s.len ≠ 0)
    (hm : memRead s 0 s.len.toNat = .ok (ty :: body)) :
    deliver v s = .next (s.idleState.emit (.packet (packetOf ty body v))) := by
  rw [deliver_last hst hr]
  exact (exec_rbLast hst hr v).trans <| by
    rw [decodeCompletion_doneOk (c := s.ctx) hv hlen]
    exact doneOk_eq hst hr hv hlen hm

/-! ### The whole span -/

/-- The state in which the bytes `tb` of the span are in place and the checksum byte is due. -/
structure SpanStored (tb : List Byte) (s : State) : Prop where
  st : s.st = .readBody
  last : ¬ 1 < s.rem.toNat
  len : s.len.toNat = tb.length
  fits : s.len.toNat ≤ s.maxLen.value
  cells : s.buf.contiguous
  bytes : s.buf.bytes = tb
  sum : s.sum = sumMod tb

/-- The bytes of a span of length `L`, stored from its start on, are in place at its checksum byte. -/
theorem Stored.spanStored {s t : State} {tb : List Byte} {L : Half} (h : Stored (s.startBody L) tb t)
    (htb : tb.length = L.toNat) (hL : L.toNat ≤ s.maxLen.value) : SpanStored tb t := by
  have hrem : t.rem.toNat + tb.length = (L + 1).toNat := h.rem
  rw [add_one_toNat hL] at hrem
  have hbytes : t.buf.bytes = tb := h.bytes
  exact {
    st := h.st
    last := by omega
    len := by rw [h.len, htb]; rfl
    fits := by rw [h.len, h.maxLen]; exact hL
    cells := h.cells
    bytes := hbytes
    sum := by rw [h.sum rfl, hbytes] }

/-- The checksum byte of a frame whose span is in place: a wrong one (42_reassembler R98). -/
theorem SpanStored.corrupt {s : State} {tb : List Byte} (h : SpanStored tb s) {c : Byte} (hc : c ≠ ck tb) :
    deliver c s = .next (s.idleState.emit (.error .checksumError)) :=
  deliver_corrupt h.st h.last (by rwa [h.sum])

/-- The right one, after no byte at all (R99). -/
theorem SpanStored.empty {s : State} (h : SpanStored [] s) :
    deliver (ck []) s = .next (s.idleState.emit (.error .emptyFrame)) :=
  deliver_empty h.st h.last (by rw [h.sum, ck]) (BitVec.eq_of_toNat_eq h.len)

/-- The right one, after a type byte and a body (R97). -/
theorem SpanStored.packet {s : State} {ty : Byte} {body : List Byte} (h : SpanStored (ty :: body) s) :
    deliver (ck (ty :: body)) s = .next (s.idleState.emit (.packet (packetOf ty body (ck (ty :: body))))) := by
  have hcount : s.len.toNat = s.buf.length := by rw [h.len, ← h.bytes, Memory.bytes_length]
  have hlen : s.len ≠ 0 := by
    intro h0
    have hlen := h.len
    rw [h0] at hlen
    cases hlen
  exact deliver_packet h.st h.last (by rw [h.sum, ck]) hlen
    ((memRead_whole h.cells hcount h.fits).trans (congrArg _ h.bytes))

theorem SpanStored.completes {s : State} {tb : List Byte} (h : SpanStored tb s) (c : Byte) :
    ∃ t, deliver c s = .next t := by
  by_cases hc : c = ck tb
  · subst hc
    cases tb with
    | nil => exact ⟨_, h.empty⟩
    | cons ty body => exact ⟨_, h.packet⟩
  · exact ⟨_, h.corrupt hc⟩

/-! ### FRAME -/

/-- FRAME with an accepted length: the span is delivered from its start on. -/
theorem execFrame_accepted {s : State} {L : Half} {span : List Byte} (hw : s.st = .waitStart)
    (hspan : span.length = L.toNat + 1) (hL : L.toNat ≤ s.maxLen.value) :
    exec (.frame L span) s = deliverAll span (s.startBody L) := by
  change execFrame L span s = _
  rw [execFrame, whenApplies_pos (applies_frame.2 ⟨hw, hspan⟩), execWsStart, whenApplies_pos (applies_wsStart.2 hw),
    andThen_next, deliverAll_length rfl, if_pos hL]
  rfl

/-- FRAME with a rejected length ends there (42_reassembler R94, log 11). -/
theorem execFrame_rejected {s : State} {L : Half} {span : List Byte} (hw : s.st = .waitStart)
    (hspan : span.length = L.toNat + 1) (hL : s.maxLen.value < L.toNat) :
    exec (.frame L span) s = .next (s.idleState.emit (.error .frameTooLarge)) := by
  change execFrame L span s = _
  rw [execFrame, whenApplies_pos (applies_frame.2 ⟨hw, hspan⟩), execWsStart, whenApplies_pos (applies_wsStart.2 hw),
    andThen_next, deliverAll_length rfl, if_neg (Nat.not_le.2 hL)]
  rfl

/-- The bytes of the span but the checksum byte, and then that byte. -/
theorem deliverAll_span {s : State} {L : Half} {tb : List Byte} (hL : L.toNat ≤ s.maxLen.value)
    (htb : tb.length = L.toNat) (c : Byte) :
    ∃ t, deliverAll (tb ++ [c]) (s.startBody L) = deliver c t ∧ Stored (s.startBody L) tb t ∧
      t.input = s.input := by
  have hrem : (s.startBody L).rem.toNat = L.toNat + 1 := add_one_toNat hL
  have hroom : (s.startBody L).buf.length + tb.length ≤ (s.startBody L).maxLen.value + 1 := by
    change 0 + tb.length ≤ s.maxLen.value + 1
    omega
  obtain ⟨t, ht, hst, hti, -⟩ := deliverAll_stores (s := s.startBody L) (vs := tb) rfl rfl (by omega) hroom
  refine ⟨t, ?_, hst, hti⟩
  rw [deliverAll_append, ht, andThen_next, deliverAll]
  cases deliver c t <;> rfl

/-- The idle state forgets the frame, of which the stored bytes have changed nothing else but `esc` and the input. -/
theorem Stored.idleState {s t : State} {vs : List Byte} (h : Stored s vs t) :
    t.idleState = { s.idleState with input := t.input } := by
  simp only [State.idleState, h.maxLen, h.event, h.delivered, h.evReady, h.result]

/-- Settles O25: a rejected length ends the row; after an accepted one the span is stored and its last byte
completes the frame. -/
theorem wholeFrameHasOneOutcome : Obligations.WholeFrameHasOneOutcome := by
  intro s L tb c hw htb idleWith
  have hspan : (tb ++ [c]).length = L.toNat + 1 := by rw [List.length_append, htb, List.length_singleton]
  have hframe : L.toNat ≤ s.maxLen.value → ∃ t, exec (.frame L (tb ++ [c])) s = deliver c t ∧ SpanStored tb t ∧
      t.idleState = s.idleState := by
    intro hL
    obtain ⟨t, ht, hst, hti⟩ := deliverAll_span hL htb c
    refine ⟨t, (execFrame_accepted hw hspan hL).trans ht, hst.spanStored htb hL, ?_⟩
    rw [hst.idleState, hti]
    rfl
  refine ⟨execFrame_rejected hw hspan, fun hL hc => ?_, fun hlen hc => ?_, fun ty body hL htb hc => ?_⟩
  · obtain ⟨t, ht, hs, hidle⟩ := hframe hL
    rw [ht, hs.corrupt hc, hidle]
    rfl
  · subst hlen hc
    obtain ⟨t, ht, hs, hidle⟩ := hframe (Nat.zero_le _)
    obtain rfl := List.eq_nil_of_length_eq_zero htb
    exact (ht.trans hs.empty).trans (by rw [hidle]; rfl)
  · obtain ⟨t, ht, hs, hidle⟩ := hframe hL
    subst htb hc
    rw [ht, hs.packet, hidle]
    rfl

/-! ### Where an instruction completes -/

/-- A raw pair in a frame completes: it is one delivery at `esc = 0`. -/
theorem escapedPair_completes {s : State} (hinv : s.Inv) (hf : s.st ≠ .waitStart) {b : Byte}
    (hb : b ≠ Config.escMark) : ∃ t, escapedPair b s = .next t := by
  rw [escapedPair_eq hf hb]
  exact deliver_completes hinv.clearEsc hf _

/-- FRAME completes: its length is rejected, or its span is stored and its last byte completes the frame. -/
theorem frame_completes {s : State} {L : Half} {span : List Byte} (ha : Instr.applies s.ctx (.frame L span) = true) :
    ∃ t, exec (.frame L span) s = .next t := by
  obtain ⟨hw, hspan⟩ := applies_frame.1 ha
  by_cases hL : L.toNat ≤ s.maxLen.value
  · obtain rfl | ⟨tb, c, rfl⟩ := List.eq_nil_or_concat' span
    · cases hspan
    · have htb : tb.length = L.toNat := by simpa using hspan
      obtain ⟨t, ht, hst, -⟩ := deliverAll_span hL htb c
      rw [execFrame_accepted hw hspan hL, ht]
      exact (hst.spanStored htb hL).completes c
  · exact ⟨_, execFrame_rejected hw hspan (Nat.not_le.1 hL)⟩

theorem unEos_completes (s : State) : ∃ t, exec .unEos s = .next t := by
  change ∃ t, execUnEos s = .next t
  unfold execUnEos
  split <;> exact ⟨_, rfl⟩

theorem unBypass_completes {s : State} (hw : s.st = .waitStart) (b : Byte) : ∃ t, exec (.unBypass b) s = .next t := by
  change ∃ t, execUnBypass b s = .next t
  rw [execUnBypass, whenApplies_pos (applies_unBypass.2 hw)]
  split
  · exact ⟨_, exec_wsStart hw⟩
  · exact ⟨_, exec_wsSkip hw ‹_›⟩

/-- A row behind whose condition something completes, completes where the condition holds. -/
theorem whenApplies_completes {i : Instr} {s : State} {k : Res} (ha : i.applies s.ctx = true)
    (hk : ∃ t, k = .next t) : ∃ t, whenApplies i s k = .next t := by
  rwa [whenApplies_pos ha]

/-- Settles O45: a row without a condition answers at once; one with a condition answers what stands behind it, which is
a next state, or a delivery, and a delivery completes under the invariant. -/
theorem everyApplicableInstructionCompletes : Obligations.EveryApplicableInstructionCompletes := by
  intro i s hinv ha
  cases i with
  | reset | noByte | ckClear | ckAdd | ckValue | ckCheck | typeReceive | typeTransmissionStatus | typeAtResponse
  | typeRemoteAtResponse | typeRemoteAtRequestOutbound | dispatch | stuff | errChecksumError | errFrameTooLarge
  | errEscapeSequenceError | errEmptyFrame | tagUnknown | tagReceive | tagTransmissionStatus | tagAtResponse
  | tagRemoteAtResponse => exact ⟨_, rfl⟩
  | wsStart | wsSkip | unEsc | rlhByte | rllAccept | rllTooLarge | doneBadCk | doneEmpty | typeUnknown | frameEnc
  | frameRawLen => exact whenApplies_completes ha ⟨_, rfl⟩
  | unEos => exact unEos_completes s
  | unBypass b => exact unBypass_completes (applies_unBypass.1 ha) b
  | unXor b =>
    obtain ⟨hf, -, -⟩ := applies_unXor.1 ha
    exact whenApplies_completes ha (deliver_completes hinv.clearEsc hf _)
  | unPass b =>
    obtain ⟨hf, -, -⟩ := applies_unPass.1 ha
    exact whenApplies_completes ha (deliver_completes hinv hf b)
  | escPair7E | escPair7D | escPair11 | escPair13 =>
    exact whenApplies_completes ha (escapedPair_completes hinv (Ctx.inFrame_iff.1 ha) (by decide))
  | escPairAny b =>
    obtain ⟨hf, hb⟩ := applies_escPairAny.1 ha
    exact whenApplies_completes ha (escapedPair_completes hinv hf hb)
  | rbStore v =>
    obtain ⟨(hst : s.st = .readBody), hr⟩ := applies_rbStore.1 ha
    rw [← deliver_eq_exec (decodeLogical_rbStore hst hr)]
    exact deliver_completes hinv (by simp [hst]) v
  | rbLast v =>
    obtain ⟨hst, hr⟩ := applies_rbLast.1 ha
    exact rbLast_completes hinv hst hr v
  | doneOk c =>
    obtain ⟨⟨hst, hr⟩, hc, hlen⟩ := applies_doneOk.1 ha
    obtain ⟨ty, body, hm⟩ := memRead_frame hinv hst hr hlen
    exact ⟨_, doneOk_eq hst hr hc hlen hm⟩
  | frame L span => exact frame_completes ha

end Sys2Proof.Machine
end

section
/-! The step: what is fetched, what a step on a taken item can do, and what every step keeps (00_scope R7, 10_state R10
and R19, 20_memory R38 to R40, 42_reassembler R100, 60_exceptions R142 to R145, 70_reset R162). -/

namespace Sys2Proof.Machine

/-! ### The fetched item -/

/-- The state in which the next item is taken: the waiting event is with the consumer, the step has passed at `ev_ready`
and the pins are taken. -/
def State.fetched (s : State) : State := s.handOver.tick.takeItem.2

theorem State.fetched_eq (s : State) : s.fetched = { s.handOver.tick with input := s.fetched.input } :=
  takeItem_registers s.handOver.tick

section Fetched

variable {s : State}

@[simp] theorem State.fetched_st : s.fetched.st = s.st := (congrArg State.st s.fetched_eq).trans rfl
@[simp] theorem State.fetched_esc : s.fetched.esc = s.esc := (congrArg State.esc s.fetched_eq).trans rfl
@[simp] theorem State.fetched_len : s.fetched.len = s.len := (congrArg State.len s.fetched_eq).trans rfl
@[simp] theorem State.fetched_rem : s.fetched.rem = s.rem := (congrArg State.rem s.fetched_eq).trans rfl
@[simp] theorem State.fetched_sum : s.fetched.sum = s.sum := (congrArg State.sum s.fetched_eq).trans rfl
@[simp] theorem State.fetched_buf : s.fetched.buf = s.buf := (congrArg State.buf s.fetched_eq).trans rfl
@[simp] theorem State.fetched_maxLen : s.fetched.maxLen = s.maxLen := (congrArg State.maxLen s.fetched_eq).trans rfl
@[simp] theorem State.fetched_result : s.fetched.result = s.result := (congrArg State.result s.fetched_eq).trans rfl
@[simp] theorem State.fetched_event : s.fetched.event = none := (congrArg State.event s.fetched_eq).trans rfl
@[simp] theorem State.fetched_delivered : s.fetched.delivered = s.outputs :=
  (congrArg State.delivered s.fetched_eq).trans rfl
@[simp] theorem State.fetched_evReady : s.fetched.evReady = s.evReady.tail :=
  (congrArg State.evReady s.fetched_eq).trans rfl
@[simp] theorem State.fetched_ctx : s.fetched.ctx = s.ctx := (congrArg State.ctx s.fetched_eq).trans rfl

/-- The invariant speaks of the registers, which a fetch does not touch. -/
theorem State.Inv.fetched (h : s.Inv) : s.fetched.Inv := by
  simpa only [State.Inv, State.registersClear, State.fetched_st, State.fetched_esc, State.fetched_len,
    State.fetched_rem, State.fetched_sum, State.fetched_buf, State.fetched_maxLen] using h

theorem State.takeItem_cons {p : Pins} {ps : List Pins} (hi : s.input = p :: ps) :
    s.takeItem = (p.item, { s with input := p.rest.toList ++ ps }) := by
  simp only [State.takeItem, hi]

theorem State.takeItem_nil (hi : s.input = []) : s.takeItem = (.none, s) := by
  simp only [State.takeItem, hi]

/-- While `in_ready` is high a step runs the decoded item in the fetched state. -/
theorem step_ready (hr : s.inReady = true) : step s = exec (decodeItem s.ctx s.takeItem.1) s.fetched := by
  rw [step, fetch_eq_some.2 ⟨hr, rfl, rfl⟩]
  rfl

/-- While it is low only the step passes at `ev_ready` (20_memory R40). -/
theorem step_waiting (hr : s.inReady = false) : step s = .next s.tick := by
  rw [step, fetch_eq_none.2 hr]

theorem step_cons {p : Pins} {ps : List Pins} (hr : s.inReady = true) (hi : s.input = p :: ps) :
    step s = exec (decodeItem s.ctx p.item)
      { s with delivered := s.outputs, event := none, evReady := s.evReady.tail, input := p.rest.toList ++ ps } := by
  have hf : s.fetched = { s.handOver.tick with input := p.rest.toList ++ ps } :=
    congrArg Prod.snd (State.takeItem_cons (s := s.handOver.tick) hi)
  rw [step_ready hr, State.takeItem_cons hi, hf]
  rfl

theorem step_nil (hr : s.inReady = true) (hi : s.input = []) :
    step s = exec .noByte { s with delivered := s.outputs, event := none, evReady := s.evReady.tail } := by
  have hf : s.fetched = s.handOver.tick := congrArg Prod.snd (State.takeItem_nil (s := s.handOver.tick) hi)
  rw [step_ready hr, State.takeItem_nil hi, hf]
  rfl

end Fetched

/-- Settles O2: pins that are presented are taken and decoded; with none the item is `None`. -/
theorem stepRunsTheDecodedInstruction : Obligations.StepRunsTheDecodedInstruction := by
  intro s hr
  refine ⟨fun p ps i hi hd => ?_, step_nil hr⟩
  cases hd
  exact step_cons hr hi

/-- Settles O3: the item of the pins and what is left of them, by the pins asserted in order of priority. -/
theorem onePinIsActedOnByPriority : Obligations.OnePinIsActedOnByPriority := by
  intro s p ps hr hi u
  have hstep := step_cons hr hi
  refine ⟨fun hrst => ?_, fun hrst heos => ?_, fun hrst heos hv => ?_, fun hrst heos hv => ?_⟩
  · have hrest : p.rest.toList = if p.eos = true ∨ p.inValid = true then [{ p with rst := false }] else [] := by
      simp only [Pins.rest, hrst, if_true, Bool.or_eq_true]
      split <;> rfl
    rw [hstep, hrest, Pins.item, if_pos hrst]
    rfl
  · have hrest : p.rest.toList = if p.inValid = true then [{ p with eos := false }] else [] := by
      simp only [Pins.rest, hrst, heos, if_true, if_false, Bool.false_eq_true]
      split <;> rfl
    rw [hstep, hrest, Pins.item, hrst, heos]
    rfl
  · rw [hstep, Pins.rest, Pins.item, hrst, heos, hv]
    rfl
  · rw [hstep, Pins.rest, Pins.item, hrst, heos, hv]
    rfl

/-- Settles O4: `in_ready` is low, so the step only passes at `ev_ready`. -/
theorem waitingEventHoldsTheInput : Obligations.WaitingEventHoldsTheInput := by
  intro s he hr
  exact step_waiting (State.inReady_eq_false_iff.2 ⟨he, hr⟩)

/-! ### What a step on a taken item can do -/

/-- The ways the step on the item `it`, taken in the state `s`, can end (60_exceptions R143, 30_encoding R56). -/
inductive Taken (it : Item) (s t : State) : Prop
  | reset (hit : it = .reset) (ht : t = s.applyReset)
  | kept (ht : t = s)
  | started (hw : s.st = .waitStart) (ht : t = { s with st := .readLengthHigh })
  | escaped (hf : s.st ≠ .waitStart) (ht : t = s.setEsc)
  | droppedEscape (hit : it = .eos) (he : s.esc = true) (ht : t = s.raise .escapeSequenceError)
  | delivered (v : Byte) (e : Bool) (hd : Delivered v { s with esc := e } t)

theorem decodeRaw_taken {b : Byte} {s t : State} (h : exec (decodeRaw s.ctx b) s = .next t) :
    Taken (.byte b) s t := by
  unfold decodeRaw at h
  split at h
  · split at h
    · obtain ⟨hf, ht⟩ := execUnEsc_eq_next h
      exact .escaped hf ht
    · split at h
      · exact .delivered _ _ (unXor_delivered h)
      · exact .delivered _ _ (unPass_delivered h)
  · split at h
    · obtain ⟨hw, ht⟩ := execWsStart_eq_next h
      exact .started hw ht
    · exact .kept (execWsSkip_eq_next h).2

theorem decodeItem_taken {it : Item} {s t : State} (h : exec (decodeItem s.ctx it) s = .next t) : Taken it s t := by
  cases it with
  | byte b => exact decodeRaw_taken h
  | eos =>
    obtain ⟨he, ht⟩ | ⟨-, ht⟩ := execUnEos_eq_next h
    · exact .droppedEscape rfl he ht
    · exact .kept ht
  | reset => cases h; exact .reset rfl rfl
  | none => cases h; exact .kept rfl

/-- What a step can do: end as the item it takes can, in an unchanged environment, or wait for the consumer. -/
theorem step_taken {s t : State} (h : step s = .next t) :
    (s.inReady = true ∧ Taken s.takeItem.1 s.fetched t ∧ SameEnvironment s.fetched t) ∨
      (s.inReady = false ∧ t = s.tick) := by
  cases hr : s.inReady with
  | true =>
    rw [step_ready hr, ← State.fetched_ctx] at h
    exact .inl ⟨rfl, decodeItem_taken h, exec_sameEnvironment h⟩
  | false =>
    rw [step_waiting hr] at h
    cases h
    exact .inr ⟨rfl, rfl⟩

/-- While `in_ready` is high there is no waiting. -/
theorem step_taken_ready {s t : State} (hr : s.inReady = true) (h : step s = .next t) :
    Taken s.takeItem.1 s.fetched t := by
  obtain ⟨-, ht, -⟩ | ⟨hw, -⟩ := step_taken h
  · exact ht
  · exact absurd (hr.symm.trans hw) (by decide)

/-! ### The invariant and progress -/

theorem Taken.inv {it : Item} {s t : State} (h : Taken it s t) (hs : s.Inv) : t.Inv := by
  cases h with
  | reset _ ht =>
    rw [ht]
    exact ⟨fun _ => ⟨rfl, rfl, rfl, rfl, rfl⟩, nofun, nofun, nofun⟩
  | kept ht => rwa [ht]
  | started hw ht =>
    obtain ⟨hclear, -⟩ := hs
    rw [ht]
    exact ⟨nofun, fun _ => (hclear hw).2, nofun, nofun⟩
  | escaped hf ht =>
    rw [ht]
    exact hs.withEsc hf true
  | droppedEscape _ _ ht =>
    rw [ht]
    exact hs.clearEsc
  | delivered v e hd => exact hd.inv (hs.withEsc hd.inFrame e)

/-- Settles O48: the fetch keeps the registers, and every way the taken item can end keeps the invariant. -/
theorem everyStepKeepsTheInvariant : Obligations.EveryStepKeepsTheInvariant := by
  intro s t hs h
  obtain ⟨-, ht, -⟩ | ⟨-, rfl⟩ := step_taken h
  · exact ht.inv hs.fetched
  · exact hs

/-- Settles O49: what the decoder selects applies, and what applies completes under the invariant. -/
theorem theBlockNeverStops : Obligations.TheBlockNeverStops := by
  intro s hs
  cases hr : s.inReady with
  | true =>
    have ha : (decodeItem s.ctx s.takeItem.1).applies s.fetched.ctx = true := by
      rw [State.fetched_ctx]
      exact decodeItem_applies _ _
    rw [step_ready hr]
    exact everyApplicableInstructionCompletes _ _ hs.fetched ha
  | false => exact ⟨_, step_waiting hr⟩

/-! ### Events -/

/-- Settles O50: the fetch moves the waiting event to the ones taken, and the instruction touches none of those. -/
theorem eventsAreAppendedOneByOne : Obligations.EventsAreAppendedOneByOne := by
  intro s t h
  obtain ⟨-, -, henv⟩ | ⟨-, rfl⟩ := step_taken h
  · have hout : t.outputs = s.outputs ++ t.event.toList := by
      rw [State.outputs, henv.delivered, State.fetched_delivered]
    cases he : t.event with
    | none => exact .inl (by rw [hout, he, Option.toList_none, List.append_nil])
    | some e => exact .inr ⟨e, rfl, by rw [hout, he]; rfl⟩
  · exact .inl s.tick_outputs

/-- An event of a taken item is the dropped escape's, or comes with the idle state. -/
theorem Taken.event {it : Item} {s t : State} {e : Event} (h : Taken it s t) (hs : s.event = none)
    (he : t.event = some e) :
    (e = .error .escapeSequenceError ∧ it = .eos ∧ s.esc = true) ∨
      (e ≠ .error .escapeSequenceError ∧ t = s.idleState.emit e) := by
  cases h with
  | reset _ ht => simp [ht] at he
  | kept ht | started _ ht | escaped _ ht => simp [ht, hs] at he
  | droppedEscape hit hesc ht =>
    rw [ht, State.raise_event] at he
    cases he
    exact .inl ⟨rfl, hit, hesc⟩
  | delivered v e' hd =>
    obtain ⟨-, hkept, -⟩ | ⟨e'', hne, ht⟩ := hd.event
    · rw [hkept] at he
      exact absurd (hs.symm.trans he) nofun
    · rw [ht, State.emit_event] at he
      cases he
      exact .inr ⟨hne, ht⟩

/-- Settles O38: any other event comes with the idle state. -/
theorem everyOtherEventEndsIdle : Obligations.EveryOtherEventEndsIdle := by
  intro s t e hr h he hne
  obtain ⟨heq, -, -⟩ | ⟨-, rfl⟩ := (step_taken_ready hr h).event State.fetched_event he
  · exact absurd heq hne
  · exact ⟨rfl, rfl, rfl, rfl, rfl, rfl⟩

/-- The pins at the front present the item that is taken next. -/
theorem State.takeItem_head {s : State} {it : Item} (h : s.takeItem.1 = it) (hne : it ≠ .none) :
    ∃ p ∈ s.input.head?, p.item = it := by
  cases hi : s.input with
  | nil =>
    rw [State.takeItem_nil hi] at h
    exact absurd h.symm hne
  | cons p ps =>
    rw [State.takeItem_cons hi] at h
    exact ⟨p, rfl, h⟩

/-- Settles O39: a delivery outputs other events (`Delivered.event`), and no other item outputs one. -/
theorem escapeErrorComesOnlyFromEos : Obligations.EscapeErrorComesOnlyFromEos := by
  intro s t hr h he
  obtain ⟨-, hit, hesc⟩ | ⟨hne, -⟩ := (step_taken_ready hr h).event State.fetched_event he
  · exact ⟨State.fetched_esc ▸ hesc, State.takeItem_head hit nofun⟩
  · exact absurd rfl hne

/-- A packet that a delivery puts out is the one of the bytes in the buffer, whose checksum the byte delivered is. -/
theorem Delivered.packet_valid {v : Byte} {s t : State} {p : Packet} (h : Delivered v s t) (hs : s.Inv)
    (hnone : s.event = none) (he : t.event = some (.packet p)) :
    ∃ ty body, p = packetOf ty body (ck (ty :: body)) ∧ 1 + body.length ≤ s.maxLen.value := by
  cases h with
  | lengthHigh _ ht | accepted _ _ ht | stored _ _ _ ht =>
    subst ht
    exact absurd (hnone.symm.trans he) nofun
  | tooLarge _ _ ht | corrupt _ _ ht | empty _ _ ht => simp [ht] at he
  | packet hst hr hv ty body hm ht =>
    obtain ⟨-, -, -, hbody⟩ := hs
    obtain ⟨hmax, hrem, -, hcount, hcells, hsum⟩ := hbody hst
    have hlen : s.len.toNat = s.buf.length := by omega
    have hbytes : s.buf.bytes = ty :: body := Except.ok.inj ((memRead_whole hcells hlen hmax).symm.trans hm)
    have hlength : s.buf.length = body.length + 1 := by rw [← Memory.bytes_length, hbytes, List.length_cons]
    have hck : v = ck (ty :: body) := by rw [hv, hsum, hbytes, ck]
    refine ⟨ty, body, ?_, by omega⟩
    rw [ht, State.emit_event] at he
    cases he
    rw [hck]

/-- Settles O56: only a delivery puts out a packet, and under the invariant it is the packet of the stored bytes. -/
theorem packetsAreValidated : Obligations.PacketsAreValidated := by
  intro s t p hs hr h he
  cases step_taken_ready hr h with
  | reset _ ht | kept ht | started _ ht | escaped _ ht | droppedEscape _ _ ht => simp [ht] at he
  | delivered v e hd =>
    obtain ⟨ty, body, rfl, hmax⟩ :=
      hd.packet_valid (hs.fetched.withEsc hd.inFrame e) State.fetched_event he
    exact ⟨rfl, (congrArg MaxLen.value State.fetched_maxLen) ▸ hmax, rfl⟩

/-! ### The environment -/

/-- Only `Reset` touches the output wires, and it clears them (log 20). -/
theorem Taken.result {it : Item} {s t : State} (h : Taken it s t) :
    t.result = s.result ∨ t.result = .none ∧ it = .reset := by
  cases h with
  | reset hit ht => exact .inr ⟨by rw [ht]; rfl, hit⟩
  | kept ht | started _ ht | escaped _ ht | droppedEscape _ _ ht => exact .inl (by subst ht; rfl)
  | delivered v e hd => exact .inl hd.result

theorem Pins.rst_of_item_reset {p : Pins} (h : p.item = .reset) : p.rst = true := by
  unfold Pins.item at h
  split at h
  · assumption
  · split at h
    · cases h
    · split at h <;> cases h

/-- Settles O51: the instructions' part is `exec_sameEnvironment` and `exec_result`; in a step the taken item is `Reset`
or an instruction that drives nothing. -/
theorem instructionsLeaveTheEnvironmentAlone : Obligations.InstructionsLeaveTheEnvironmentAlone := by
  refine ⟨fun i s t h => ?_, fun s t h => ?_⟩
  · obtain ⟨hm, hd, hi, hr⟩ := exec_sameEnvironment h
    exact ⟨hm, hd, hi, hr, fun hne hformat => exec_result hne (not_drivesWires hformat) h⟩
  · obtain ⟨-, ht, henv⟩ | ⟨-, rfl⟩ := step_taken h
    · refine ⟨henv.maxLen.trans State.fetched_maxLen, ?_⟩
      obtain hres | ⟨hres, hit⟩ := ht.result
      · exact .inl (hres.trans State.fetched_result)
      · obtain ⟨p, hp, hitem⟩ := State.takeItem_head hit nofun
        exact .inr ⟨hres, p, hp, Pins.rst_of_item_reset hitem⟩
    · exact ⟨rfl, .inl rfl⟩

/-! ### `ReadBody` before the last byte -/

/-- Settles O24: raw 0x7E in a frame is a delivery like any other byte, and before the last byte of the span a delivery
stores. -/
theorem startMarkerInsideAFrameIsData : Obligations.StartMarkerInsideAFrameIsData := by
  refine ⟨fun s hf => ⟨fun he => ?_, fun he => ?_⟩, fun s t hst hr hpins h => ?_⟩
  · refine ⟨decodeRaw_unPass hf he (by decide), ?_⟩
    rw [exec_unPass hf he (by decide)]
    exact exists_decodeLogical_deliver hf _
  · refine ⟨decodeRaw_unXor hf he (by decide), decodeRaw_unXor hf he (by decide), ?_, ?_⟩
    · rw [exec_unXor hf he (by decide)]
      exact exists_decodeLogical_deliver (s := s.clearEsc) hf _
    · rw [exec_unXor hf he (by decide)]
      exact exists_decodeLogical_deliver (s := s.clearEsc) hf _
  · obtain ⟨-, ht, -⟩ | ⟨-, rfl⟩ := step_taken h
    · cases ht with
      | reset hit =>
        obtain ⟨p, hp, hitem⟩ := State.takeItem_head hit nofun
        exact absurd hitem (hpins p hp)
      | kept ht | escaped _ ht | droppedEscape _ _ ht =>
        rw [ht]
        exact ⟨State.fetched_st.trans hst, .inl State.fetched_rem⟩
      | started hw => exact absurd (hst.symm.trans (State.fetched_st.symm.trans hw)) nofun
      | delivered v e hd =>
        have hr' : 1 < s.fetched.rem.toNat := by rwa [State.fetched_rem]
        have hrem := sub_one_toNat (Nat.le_of_lt hr)
        rw [← State.fetched_rem] at hrem
        rw [hd.stores (State.fetched_st.trans hst) hr']
        exact ⟨State.fetched_st.trans hst, .inr (hrem.trans (congrArg _ State.fetched_rem))⟩
    · exact ⟨hst, .inl rfl⟩

end Sys2Proof.Machine
end

section
/-! Chunks of a stream: what is presented later changes nothing before it is taken (10_state R23, 20_memory R35). -/

namespace Sys2Proof.Machine

/-- An outcome with more items presented after those already there. -/
def presentAfter (ys : List Item) (r : Res) : Res := andThen r fun t => .next (t.presenting ys)

/-! ### Presenting more commutes with the meanings a step can run -/

section Meanings

variable (ys : List Item) (s : State)

theorem whenApplies_presenting {i : Instr} {k k' : Res} (hk : k' = presentAfter ys k) :
    whenApplies i (s.presenting ys) k' = presentAfter ys (whenApplies i s k) := by
  unfold whenApplies
  rw [State.presenting_ctx, hk]
  split <;> rfl

theorem memRead_presenting (a n : Nat) : memRead (s.presenting ys) a n = memRead s a n := by
  induction n generalizing a with
  | zero => rfl
  | succ n ih =>
    rw [memRead, ih]
    rfl

theorem doneOk_presenting (c : Byte) : execDoneOk c (s.presenting ys) = presentAfter ys (execDoneOk c s) := by
  refine whenApplies_presenting ys s ?_
  rw [memRead_presenting, State.presenting_len]
  split <;> rfl

theorem rbLast_presenting (v : Byte) : execRbLast v (s.presenting ys) = presentAfter ys (execRbLast v s) := by
  refine whenApplies_presenting ys s ?_
  rw [State.presenting_ctx, State.presenting_len]
  split
  · exact whenApplies_presenting ys s rfl
  · split
    · exact whenApplies_presenting ys s rfl
    · exact doneOk_presenting ys s v

theorem rbStore_presenting (v : Byte) : execRbStore v (s.presenting ys) = presentAfter ys (execRbStore v s) := by
  refine whenApplies_presenting ys s ?_
  unfold appendByte memWrite
  rw [State.presenting_maxLen, State.presenting_buf]
  split <;> rfl

theorem deliver_presenting (v : Byte) : deliver v (s.presenting ys) = presentAfter ys (deliver v s) := by
  unfold deliver
  rw [State.presenting_st, State.presenting_ctx]
  split
  · rfl
  · exact whenApplies_presenting ys s rfl
  · split <;> exact whenApplies_presenting ys s rfl
  · split
    · exact rbStore_presenting ys s v
    · exact rbLast_presenting ys s v

theorem decodeRaw_presenting (b : Byte) :
    exec (decodeRaw s.ctx b) (s.presenting ys) = presentAfter ys (exec (decodeRaw s.ctx b) s) := by
  unfold decodeRaw
  split
  · split
    · exact whenApplies_presenting ys s rfl
    · split
      · exact whenApplies_presenting ys s (deliver_presenting ys s.clearEsc _)
      · exact whenApplies_presenting ys s (deliver_presenting ys s b)
  · split <;> exact whenApplies_presenting ys s rfl

theorem unEos_presenting : execUnEos (s.presenting ys) = presentAfter ys (execUnEos s) := by
  unfold execUnEos
  rw [State.presenting_esc]
  split <;> rfl

theorem decodeItem_presenting (it : Item) :
    exec (decodeItem s.ctx it) (s.presenting ys) = presentAfter ys (exec (decodeItem s.ctx it) s) := by
  cases it with
  | byte b => exact decodeRaw_presenting ys s b
  | eos => exact unEos_presenting ys s
  | reset => rfl
  | none => rfl

end Meanings

/-! ### Presenting more commutes with a run that ends before it -/

theorem takeItem_presenting (ys : List Item) {s : State} (hi : s.input ≠ []) :
    (s.presenting ys).takeItem = (s.takeItem.1, s.takeItem.2.presenting ys) := by
  obtain ⟨p, ps, hps⟩ := List.exists_cons_of_ne_nil hi
  have hps' : (s.presenting ys).input = p :: (ps ++ ys.map Pins.ofItem) := by
    rw [State.presenting_input, hps, List.cons_append]
  rw [State.takeItem_cons hps, State.takeItem_cons hps', ← List.append_assoc]
  rfl

theorem fetched_presenting (ys : List Item) {s : State} (hi : s.input ≠ []) :
    (s.presenting ys).fetched = s.fetched.presenting ys :=
  congrArg Prod.snd (takeItem_presenting ys (s := s.handOver.tick) hi)

/-- While something is presented, the step does not see what is presented after it. -/
theorem step_presenting (ys : List Item) {s : State} (hi : s.input ≠ []) :
    step (s.presenting ys) = presentAfter ys (step s) := by
  cases hr : s.inReady with
  | true =>
    have hr' : (s.presenting ys).inReady = true := hr
    rw [step_ready hr, step_ready hr', takeItem_presenting ys hi, fetched_presenting ys hi, State.presenting_ctx,
      ← State.fetched_ctx, decodeItem_presenting]
  | false =>
    have hr' : (s.presenting ys).inReady = false := hr
    rw [step_waiting hr, step_waiting hr']
    rfl

/-- A step takes one entry of the input at most. -/
theorem step_input_length {s t : State} (h : step s = .next t) : s.input.length ≤ t.input.length + 1 := by
  obtain ⟨-, -, henv⟩ | ⟨-, rfl⟩ := step_taken h
  · rw [henv.input]
    cases hi : s.input with
    | nil => exact Nat.zero_le _
    | cons p ps =>
      have hf : s.fetched.input = p.rest.toList ++ ps :=
        congrArg (fun t => t.2.input) (State.takeItem_cons (s := s.handOver.tick) hi)
      rw [hf, List.length_append, List.length_cons]
      omega
  · exact Nat.le_succ _

/-- A run of no more steps than entries are presented does not see what is presented after them. -/
theorem runSteps_presenting (ys : List Item) {n : Nat} {s : State} (hn : n ≤ s.input.length) :
    runSteps n (s.presenting ys) = presentAfter ys (runSteps n s) := by
  induction n generalizing s with
  | zero => rfl
  | succ n ih =>
    have hi : s.input ≠ [] := List.ne_nil_of_length_pos (Nat.zero_lt_of_lt hn)
    rw [runSteps_succ, runSteps_succ, step_presenting ys hi]
    cases hstep : step s with
    | next t => exact ih (by have := step_input_length hstep; omega)
    | fault f => rfl
    | refused q => rfl

/-- Settles O57: the first chunk's run does not see the second (`runSteps_presenting`), and the second's goes on from
where it ends. -/
theorem chunkBoundariesAreInvisible : Obligations.ChunkBoundariesAreInvisible := by
  intro s xs ys _ _
  have hsplit : s.presenting (xs ++ ys) = (s.presenting xs).presenting ys := by
    simp only [State.presenting, List.map_append, List.append_assoc]
  have hlen : xs.length ≤ (s.presenting xs).input.length := by simp
  rw [runSteps_add, hsplit, runSteps_presenting ys hlen, presentAfter, andThen_assoc]
  rfl

end Sys2Proof.Machine
end

section
/-! Raw streams: the unstuffer as a function and as the block, and whole frames on the wire, valid or with a corrupt
checksum (41_unstuffer R86, 42_reassembler R104, 44_reference_encoder R132, R133). -/

namespace Sys2Proof.Machine

/-! ### The unstuffer as a function -/

theorem unstuffBytes_escMark (e : Bool) (r : List Byte) :
    unstuffBytes e (Config.escMark :: r) = unstuffBytes true r := by
  rw [unstuffBytes, if_pos rfl]

theorem unstuffBytes_cons {e : Bool} {b : Byte} (hb : b ≠ Config.escMark) (r : List Byte) :
    unstuffBytes e (b :: r) = ((if e then xorMask b else b) :: (unstuffBytes false r).1, (unstuffBytes false r).2) := by
  rw [unstuffBytes, if_neg hb]

theorem escMark_mem_escapable : Config.escMark ∈ Config.escapable := by decide

theorem ne_escMark_of_not_escapable {v : Byte} (h : v ∉ Config.escapable) : v ≠ Config.escMark :=
  fun hv => h (hv ▸ escMark_mem_escapable)

/-- Settles O13: an escaped byte comes back from its pair, any other byte as it is. -/
theorem unstuffInvertsStuff : Obligations.UnstuffInvertsStuff := by
  intro bs
  fun_induction stuffBytes bs with
  | case1 => rfl
  | case2 v vs hv ih => rw [unstuffBytes_escMark, unstuffBytes_cons (xorMask_ne_escMark hv), ih, if_pos rfl,
      xorMask_xorMask]
  | case3 v vs hv ih => rw [unstuffBytes_cons (ne_escMark_of_not_escapable hv), ih, if_neg nofun]

/-! ### The escape pairs -/

/-- A raw-pair row in a frame is the instruction that the byte its pair stands for decodes to, at `esc = 0`. -/
theorem escapedPair_decodes {i : Instr} {s : State} {b : Byte} (hf : s.st ≠ .waitStart)
    (ha : i.applies s.ctx = true) (hb : b ≠ Config.escMark) (hi : exec i s = whenApplies i s (escapedPair b s)) :
    ∃ j, decodeLogical { s.ctx with esc := false } (xorMask b) = .ok j ∧ exec i s = exec j { s with esc := false } := by
  rw [hi, whenApplies_pos ha, escapedPair_eq hf hb]
  exact exists_decodeLogical_deliver (s := s.clearEsc) hf (xorMask b)

/-- Settles O12: each pair is a delivery at `esc = 0`, and applies in every frame. -/
theorem escapePairStandsForOneLogicalByte : Obligations.EscapePairStandsForOneLogicalByte := by
  refine ⟨fun s hf => ?_, fun s hinv hf => ?_⟩
  all_goals have hframe : s.ctx.inFrame = true := Ctx.inFrame_iff.2 hf
  · exact ⟨escapedPair_decodes hf hframe (b := 0x5E) (by decide) rfl,
      escapedPair_decodes hf hframe (b := 0x5D) (by decide) rfl,
      escapedPair_decodes hf hframe (b := 0x31) (by decide) rfl,
      escapedPair_decodes hf hframe (b := 0x33) (by decide) rfl,
      fun b hb => escapedPair_decodes hf (applies_escPairAny.2 ⟨hf, hb⟩) hb rfl⟩
  · refine ⟨fun i hi => everyApplicableInstructionCompletes i s hinv ?_, fun b hb =>
      everyApplicableInstructionCompletes _ s hinv (applies_escPairAny.2 ⟨hf, hb⟩)⟩
    simp only [List.mem_cons, List.not_mem_nil, or_false] at hi
    obtain rfl | rfl | rfl | rfl := hi <;> exact hframe

/-! ### A step on a raw byte in a frame -/

/-- The pins of a raw stream, one byte each. -/
def rawPins (r : List Byte) : List Pins := (r.map Item.byte).map Pins.ofItem

theorem rawPins_append (r r' : List Byte) : rawPins (r ++ r') = rawPins r ++ rawPins r' := by
  simp only [rawPins, List.map_append]

/-- A block in a frame to which bytes are fed, with no event out. -/
structure Fed (r : List Byte) (ps : List Pins) (s : State) : Prop where
  frame : s.st ≠ .waitStart
  event : s.event = none
  ready : s.evReady = []
  input : s.input = rawPins r ++ ps

section FedByte

variable {s : State} {b : Byte} {r : List Byte} {ps : List Pins}

theorem Fed.step_eq (h : Fed (b :: r) ps s) :
    step s = exec (decodeRaw s.ctx b) { s with input := rawPins r ++ ps } := by
  rw [step_presented h.ready (h.input.trans rfl), h.event, Option.toList_none, List.append_nil]
  rfl

/-- The marker sets `esc` (41_unstuffer R80). -/
theorem Fed.step_escMark (h : Fed (Config.escMark :: r) ps s) :
    step s = .next { s with esc := true, input := rawPins r ++ ps } := by
  rw [h.step_eq, decodeRaw_escMark (c := s.ctx) h.frame]
  exact exec_unEsc h.frame

/-- Any other byte is delivered at `esc = 0`, after a marker XORed (R81, R82). -/
theorem Fed.step_byte (h : Fed (b :: r) ps s) (hb : b ≠ Config.escMark) :
    step s = deliver (if s.esc then xorMask b else b) { s with esc := false, input := rawPins r ++ ps } := by
  cases he : s.esc with
  | true =>
    rw [h.step_eq, decodeRaw_unXor (c := s.ctx) h.frame he hb]
    exact exec_unXor h.frame he hb
  | false =>
    have hpass := exec_unPass (s := { s with input := rawPins r ++ ps }) h.frame he hb
    rw [h.step_eq, decodeRaw_unPass (c := s.ctx) h.frame he hb, hpass, he]
    rfl

/-- In `ReadBody`, before the last byte of the span, that delivery stores. -/
theorem Fed.step_stores (h : Fed (b :: r) ps s) (hb : b ≠ Config.escMark) (hst : s.st = .readBody)
    (hc : s.buf.contiguous) (hr : 1 < s.rem.toNat) (hroom : s.buf.length ≤ s.maxLen.value) :
    ∃ u, step s = .next u ∧ Stored s [if s.esc then xorMask b else b] u ∧ u.esc = false ∧ Fed r ps u := by
  obtain ⟨u, hu, hsu, hin, hesc⟩ :=
    deliver_stores (s := { s with esc := false, input := rawPins r ++ ps }) hst hc hr hroom
  exact ⟨u, (h.step_byte hb).trans hu, (Stored.nil hc _ _).trans hsu, hesc,
    ⟨hsu.st ▸ h.frame, hsu.event.trans h.event, hsu.evReady.trans h.ready, hin⟩⟩

end FedByte

/-! ### The block unstuffs the counted span -/

/-- In `ReadBody`, before the last byte of the span, a raw sequence is stored unstuffed. -/
theorem runSteps_unstuffs {r : List Byte} {ps : List Pins} {s : State} (h : Fed r ps s) (hst : s.st = .readBody)
    (hc : s.buf.contiguous) (hr : (unstuffBytes s.esc r).1.length < s.rem.toNat)
    (hroom : s.buf.length + (unstuffBytes s.esc r).1.length ≤ s.maxLen.value + 1) :
    ∃ t, runSteps r.length s = .next t ∧ Stored s (unstuffBytes s.esc r).1 t ∧ t.esc = (unstuffBytes s.esc r).2 ∧
      t.input = ps := by
  induction r generalizing s with
  | nil => exact ⟨s, rfl, .nil hc s.esc s.input, rfl, h.input⟩
  | cons b r ih =>
    rw [List.length_cons, runSteps_succ]
    by_cases hb : b = Config.escMark
    · subst hb
      rw [unstuffBytes_escMark] at hr hroom ⊢
      have hfed : Fed r ps { s with esc := true, input := rawPins r ++ ps } := ⟨h.frame, h.event, h.ready, rfl⟩
      obtain ⟨t, ht, hstored, hesc, hin⟩ := ih hfed hst hc hr hroom
      exact ⟨t, by rw [h.step_escMark, andThen_next, ht], (Stored.nil hc _ _).trans hstored, hesc, hin⟩
    · rw [unstuffBytes_cons hb] at hr hroom ⊢
      rw [List.length_cons] at hr hroom
      obtain ⟨u, hu, hsu, hue, hfed⟩ := h.step_stores hb hst hc (by omega) (by omega)
      have hlen : u.buf.length = s.buf.length + 1 := hsu.length
      have hrem : u.rem.toNat + 1 = s.rem.toNat := hsu.rem
      have hmax : u.maxLen = s.maxLen := hsu.maxLen
      obtain ⟨t, ht, hstored, hesc, hin⟩ := ih hfed (hsu.st.trans hst) hsu.cells (by rw [hue]; omega)
        (by rw [hue, hmax]; omega)
      rw [hue] at hstored hesc
      exact ⟨t, by rw [hu, andThen_next, ht], hsu.trans hstored, hesc, hin⟩

/-- Settles O14: the span's room is the invariant's, and what `Stored` says is what the statement asks. -/
theorem blockUnstuffsAsTheFunctionDoes : Obligations.BlockUnstuffsAsTheFunctionDoes := by
  intro s r hinv hst he hi hr hlen
  obtain ⟨-, -, -, hbody⟩ := hinv
  obtain ⟨hmax, -, hle, hcount, hcells, -⟩ := hbody hst
  have hfed : Fed r [] (s.presenting (r.map .byte)) :=
    ⟨by rw [State.presenting_st, hst]; decide, he, hr, by rw [State.presenting_input, hi, List.append_nil]; rfl⟩
  obtain ⟨t, ht, hstored, hesc, -⟩ := runSteps_unstuffs hfed hst hcells hlen
    (by show s.buf.length + (unstuffBytes s.esc r).1.length ≤ s.maxLen.value + 1; omega)
  exact ⟨t, ht, hstored.st.trans hst, hstored.event.trans he, hstored.len, hesc, hstored.bytes, hstored.rem⟩

end Sys2Proof.Machine
end

section
/-! Whole frames on the wire: the encoder's frame, the one with its length sent raw, and the one with a corrupt checksum
(42_reassembler R104, 44_reference_encoder R131 to R133). -/

namespace Sys2Proof.Machine

/-! ### One logical byte on the wire -/

/-- The raw bytes `w` stand for the one logical byte `v`: as STUFF sends it, or as it is if it is no marker. -/
def WireForm (v : Byte) (w : List Byte) : Prop := w = stuffBytes [v] ∨ w = [v] ∧ v ≠ Config.escMark

theorem stuffBytes_singleton_escaped {v : Byte} (h : v ∈ Config.escapable) :
    stuffBytes [v] = [Config.escMark, xorMask v] := by
  rw [stuffBytes, if_pos h, stuffBytes]

theorem stuffBytes_singleton_plain {v : Byte} (h : v ∉ Config.escapable) : stuffBytes [v] = [v] := by
  rw [stuffBytes, if_neg h, stuffBytes]

/-- A byte on the wire is a pair or itself. -/
theorem WireForm.cases {v : Byte} {w : List Byte} (h : WireForm v w) :
    (w = [Config.escMark, xorMask v] ∧ xorMask v ≠ Config.escMark) ∨ w = [v] ∧ v ≠ Config.escMark := by
  obtain rfl | h := h
  · by_cases hv : v ∈ Config.escapable
    · exact .inl ⟨stuffBytes_singleton_escaped hv, xorMask_ne_escMark hv⟩
    · exact .inr ⟨stuffBytes_singleton_plain hv, ne_escMark_of_not_escapable hv⟩
  · exact .inr h

/-- Fed at `esc = 0`, a byte on the wire is its delivery. -/
theorem runSteps_wireForm {v : Byte} {w : List Byte} {ps : List Pins} {s : State} (hw : WireForm v w) (h : Fed w ps s)
    (he : s.esc = false) : runSteps w.length s = deliver v { s with input := ps } := by
  obtain ⟨rfl, hb⟩ | ⟨rfl, hb⟩ := hw.cases
  · have hfed : Fed [xorMask v] ps { s with esc := true, input := rawPins [xorMask v] ++ ps } :=
      ⟨h.frame, h.event, h.ready, rfl⟩
    rw [List.length_cons, List.length_singleton, runSteps_succ, h.step_escMark, andThen_next, runSteps_one,
      hfed.step_byte hb, if_pos rfl, xorMask_xorMask, he]
    rfl
  · rw [List.length_singleton, runSteps_one, h.step_byte hb, he]
    rfl

/-! ### A frame on the wire -/

/-- A frame on the wire: its start marker, its length bytes in the forms `hi` and `lo`, its stuffed type and body, its
checksum byte in the form `w`. -/
def wireFrame (hi lo tb w : List Byte) : List Byte := Config.start :: ((hi ++ lo) ++ (stuffBytes tb ++ w))

/-- The block right after a start marker, with the event that waited at the consumer and `ps` presented. -/
def State.opened (s : State) (ps : List Pins) : State :=
  { s with st := .readLengthHigh, delivered := s.outputs, event := none, input := ps }

theorem step_startMarker {s : State} {r : List Byte} {ps : List Pins} (hw : s.st = .waitStart) (hr : s.evReady = [])
    (hi : s.input = rawPins (Config.start :: r) ++ ps) : step s = .next (s.opened (rawPins r ++ ps)) := by
  rw [step_presented hr (hi.trans rfl), decodeItem, decodeRaw_start (c := s.ctx) hw, exec_wsStart (by exact hw)]
  rfl

/-- The two length bytes of an accepted length. -/
theorem runSteps_length {s : State} {L : Half} {hi lo : List Byte} {ps : List Pins} (h : Fed (hi ++ lo) ps s)
    (hst : s.st = .readLengthHigh) (he : s.esc = false) (hL : L.toNat ≤ s.maxLen.value)
    (hhi : WireForm (lengthHi L) hi) (hlo : WireForm (lengthLo L) lo) :
    runSteps (hi ++ lo).length s = .next (State.startBody { s with input := ps } L) := by
  have hfed : Fed hi (rawPins lo ++ ps) s := ⟨h.frame, h.event, h.ready, by
    rw [h.input, rawPins_append, List.append_assoc]⟩
  have hLen : withLowLength (highLength (lengthHi L)) (lengthLo L) = L := assembleLength_bytes L
  have hhigh := (runSteps_wireForm hhi hfed he).trans (deliver_lengthHigh (by exact hst))
  rw [List.length_append, runSteps_add, hhigh, andThen_next]
  rw [runSteps_wireForm (ps := ps) hlo, deliver_accepted rfl (by rwa [hLen])]
  · simp only [hLen, State.startBody]
  · exact ⟨nofun, h.event, h.ready, rfl⟩
  · exact he

/-- In a state of the invariant the idle state is the state itself (10_state R19 (a)). -/
theorem State.Inv.idleState_eq {s : State} (h : s.Inv) (hst : s.st = .waitStart) : s.idleState = s := by
  obtain ⟨hclear, -⟩ := h
  obtain ⟨hesc, hlen, hrem, hsum, hbuf⟩ := hclear hst
  cases s
  simp_all [State.idleState]

theorem SpanStored.withInput {tb : List Byte} {s : State} (h : SpanStored tb s) (ps : List Pins) :
    SpanStored tb { s with input := ps } :=
  ⟨h.st, h.last, h.len, h.fits, h.cells, h.bytes, h.sum⟩

/-- The run over the stuffed span of a frame, from its start to its checksum byte `c`. -/
theorem runSteps_span {s : State} {L : Half} {tb w : List Byte} {c : Byte} {ps : List Pins}
    (h : Fed (stuffBytes tb ++ w) ps (s.startBody L)) (he : s.esc = false) (hL : L.toNat ≤ s.maxLen.value)
    (htb : tb.length = L.toNat) (hw : WireForm c w) :
    ∃ t, runSteps (stuffBytes tb ++ w).length (s.startBody L) = deliver c t ∧ SpanStored tb t ∧
      t.idleState = { s.idleState with input := ps } := by
  have hun : unstuffBytes (s.startBody L).esc (stuffBytes tb) = (tb, false) := by
    rw [show (s.startBody L).esc = false from he, unstuffInvertsStuff]
  have hfed : Fed (stuffBytes tb) (rawPins w ++ ps) (s.startBody L) :=
    ⟨h.frame, h.event, h.ready, by rw [h.input, rawPins_append, List.append_assoc]⟩
  have hrem : (s.startBody L).rem.toNat = L.toNat + 1 := add_one_toNat hL
  have hroom : (s.startBody L).buf.length + tb.length ≤ (s.startBody L).maxLen.value + 1 := by
    change 0 + tb.length ≤ s.maxLen.value + 1
    omega
  obtain ⟨t, ht, hstored, hesc, hin⟩ := runSteps_unstuffs hfed rfl rfl (by rw [hun, hrem, htb]; omega)
    (by rw [hun]; exact hroom)
  rw [hun] at hstored hesc
  have hfed' : Fed w ps t :=
    ⟨by rw [hstored.st]; nofun, hstored.event.trans h.event, hstored.evReady.trans h.ready, hin⟩
  refine ⟨{ t with input := ps }, ?_, (hstored.spanStored htb hL).withInput ps, ?_⟩
  · rw [List.length_append, runSteps_add, ht, andThen_next, runSteps_wireForm hw hfed' hesc]
  · exact congrArg (fun u : State => { u with input := ps }) hstored.idleState

/-- The run over a frame on the wire with an accepted length and the bytes `tb` in its span ends with the delivery of its
checksum byte `c` where `tb` is in place, in a block that is otherwise as it was but for the event now taken. -/
theorem runSteps_wireFrame {s : State} {L : Half} {hi lo tb w : List Byte} {c : Byte} {ps : List Pins} (hinv : s.Inv)
    (hst : s.st = .waitStart) (hr : s.evReady = []) (hin : s.input = rawPins (wireFrame hi lo tb w) ++ ps)
    (hL : L.toNat ≤ s.maxLen.value) (htb : tb.length = L.toNat) (hhi : WireForm (lengthHi L) hi)
    (hlo : WireForm (lengthLo L) lo) (hw : WireForm c w) :
    ∃ t, runSteps (wireFrame hi lo tb w).length s = deliver c t ∧ SpanStored tb t ∧
      t.idleState = { s with delivered := s.outputs, event := none, input := ps } := by
  obtain ⟨hclear, -⟩ := id hinv
  have hesc : s.esc = false := (hclear hst).1
  have hlength := runSteps_length (s := s.opened (rawPins ((hi ++ lo) ++ (stuffBytes tb ++ w)) ++ ps))
    ⟨nofun, rfl, hr, by rw [rawPins_append (hi ++ lo), List.append_assoc]; rfl⟩ rfl hesc hL hhi hlo
  obtain ⟨t, ht, hspan, hidle⟩ := runSteps_span (s := s.opened (rawPins (stuffBytes tb ++ w) ++ ps)) (ps := ps)
    ⟨nofun, rfl, hr, rfl⟩ hesc hL htb hw
  refine ⟨t, ?_, hspan, hidle.trans ?_⟩
  · rw [wireFrame, List.length_cons, List.length_append, runSteps_succ, step_startMarker hst hr hin, andThen_next,
      runSteps_add, hlength, andThen_next]
    exact ht
  · exact congrArg (fun u : State => { u with delivered := s.outputs, event := none, input := ps })
      (hinv.idleState_eq hst)

/-! ### The frames of the encoder -/

theorem lengthHi_toNat (L : Half) : (lengthHi L).toNat = L.toNat / 256 := by
  have := length_toNat L
  have := (lengthLo L).isLt
  omega

theorem lengthLo_toNat (L : Half) : (lengthLo L).toNat = L.toNat % 256 := by
  have := length_toNat L
  have := (lengthLo L).isLt
  omega

theorem frameLength_toNat {body : List Byte} (h : 1 + body.length ≤ 65535) :
    (frameLength body).toNat = 1 + body.length := by
  rw [frameLength, BitVec.toNat_ofNat, Nat.mod_eq_of_lt (by omega)]

/-- The bytes that both encoders send after the length: STUFF goes byte by byte, so the checksum byte is a form of its
own at the end. -/
theorem stuffBytes_span (t : Byte) (body : List Byte) (c : Byte) :
    stuffBytes (t :: (body ++ [c])) = stuffBytes (t :: body) ++ stuffBytes [c] := by
  rw [← stuffBytes_append, List.cons_append]

theorem frameBytes_eq_wireFrame (t : Byte) (body : List Byte) :
    frameBytes t body = wireFrame (stuffBytes [lengthHi (frameLength body)]) (stuffBytes [lengthLo (frameLength body)])
      (t :: body) (stuffBytes [ck (t :: body)]) := by
  rw [frameBytes, wireFrame, stuffBytes_span, stuffBytes_cons (lengthHi _)]

theorem frameRawLenBytes_eq_wireFrame (t : Byte) (body : List Byte) :
    frameRawLenBytes t body = wireFrame [lengthHi (frameLength body)] [lengthLo (frameLength body)] (t :: body)
      (stuffBytes [ck (t :: body)]) := by
  rw [frameRawLenBytes, wireFrame, stuffBytes_span]
  rfl

/-- The block after the event `e` with `ps` still presented, the event that waited before at the consumer. -/
def State.afterEvent (s : State) (e : Event) (ps : List Pins) : State :=
  { s with delivered := s.outputs, event := some e, input := ps }

theorem State.afterEvent_outputs (s : State) (e : Event) (ps : List Pins) :
    (s.afterEvent e ps).outputs = s.outputs ++ [e] := rfl

section IdleBlock

variable {s : State} {t : Byte} {body r : List Byte} {ps : List Pins} (hinv : s.Inv) (hst : s.st = .waitStart)
  (hr : s.evReady = []) (hin : s.input = rawPins r ++ ps) (hL : 1 + body.length ≤ s.maxLen.value)
include hinv hst hr hin hL

/-- An idle block fed a frame on the wire that is as it should be. -/
theorem runSteps_validFrame {hi lo : List Byte} (hframe : r = wireFrame hi lo (t :: body) (stuffBytes [ck (t :: body)]))
    (hhi : WireForm (lengthHi (frameLength body)) hi) (hlo : WireForm (lengthLo (frameLength body)) lo) :
    runSteps r.length s = .next (s.afterEvent (.packet (packetOf t body (ck (t :: body)))) ps) := by
  subst hframe
  have hmax := s.maxLen.le_max
  have hlen := frameLength_toNat (body := body) (by omega)
  obtain ⟨u, hu, hspan, hidle⟩ := runSteps_wireFrame (c := ck (t :: body)) hinv hst hr hin (by rwa [hlen])
    (by rw [hlen, List.length_cons, Nat.add_comm]) hhi hlo (.inl rfl)
  rw [hu, hspan.packet, hidle]
  rfl

/-- An idle block fed a frame on the wire with a wrong checksum byte that is no marker. -/
theorem runSteps_corruptFrame {wrong : Byte} (hframe : r = wireFrame (stuffBytes [lengthHi (frameLength body)])
      (stuffBytes [lengthLo (frameLength body)]) (t :: body) [wrong])
    (hwrong : wrong ≠ ck (t :: body)) (hmark : wrong ≠ Config.escMark) :
    runSteps r.length s = .next (s.afterEvent (.error .checksumError) ps) := by
  subst hframe
  have hmax := s.maxLen.le_max
  have hlen := frameLength_toNat (body := body) (by omega)
  obtain ⟨u, hu, hspan, hidle⟩ := runSteps_wireFrame (L := frameLength body) hinv hst hr hin (by rwa [hlen])
    (by rw [hlen, List.length_cons, Nat.add_comm]) (.inl rfl) (.inl rfl) (.inr ⟨rfl, hmark⟩)
  rw [hu, hspan.corrupt hwrong, hidle]
  rfl

end IdleBlock

/-! ### The events before the last step -/

/-- With a consumer that is always ready a step hands over all that is out, and the consumer stays ready. -/
theorem step_delivered {s t : State} (hr : s.evReady = []) (h : step s = .next t) :
    t.delivered = s.outputs ∧ t.evReady = [] := by
  obtain ⟨-, -, henv⟩ | ⟨hw, -⟩ := step_taken h
  · rw [henv.delivered, henv.evReady, State.fetched_delivered, State.fetched_evReady, hr]
    exact ⟨rfl, rfl⟩
  · obtain ⟨-, hhead⟩ := State.inReady_eq_false_iff.1 hw
    rw [hr] at hhead
    cases hhead

theorem runSteps_evReady {n : Nat} {s t : State} (hr : s.evReady = []) (h : runSteps n s = .next t) :
    t.evReady = [] := by
  induction n generalizing s with
  | zero =>
    cases h
    exact hr
  | succ n ih =>
    obtain ⟨u, hu, h⟩ := andThen_eq_next.1 ((runSteps_succ n s).symm.trans h)
    exact ih (step_delivered hr hu).2 h

/-- With a consumer that is always ready, what is out before the last step of a run is with the consumer after it. -/
theorem runSteps_last {n : Nat} {s t : State} (hr : s.evReady = []) (h : runSteps (n + 1) s = .next t) :
    ∃ u, runSteps n s = .next u ∧ u.outputs = t.delivered := by
  rw [runSteps_add] at h
  obtain ⟨u, hu, h⟩ := andThen_eq_next.1 h
  rw [runSteps_one] at h
  exact ⟨u, hu, (step_delivered (runSteps_evReady hr hu) h).1.symm⟩

/-- A block whose presented stream is all taken, with the event `e` out, is as it was before but for that event. -/
theorem State.presenting_afterEvent {s : State} (he : s.event = none) (hi : s.input = []) (items : List Item)
    (e : Event) : (s.presenting items).afterEvent e [] = { s with event := some e } := by
  have hout : (s.presenting items).outputs = s.delivered := by
    rw [State.outputs, State.presenting_event, he]
    exact List.append_nil s.delivered
  rw [State.afterEvent, hout, ← hi]
  rfl

theorem State.presenting_raw {s : State} (hi : s.input = []) (r : List Byte) :
    (s.presenting (r.map .byte)).input = rawPins r ++ [] := by
  rw [State.presenting_input, hi, List.append_nil]
  rfl

/-- Settles O58: the frame is a `wireFrame` whose run ends in the packet; what is out before its last step is with the
consumer after it, and that is what was out before the frame. -/
theorem frameRoundTrip : Obligations.FrameRoundTrip := by
  intro s t body hinv hst he hi hr hL
  have hrun := runSteps_validFrame (s := s.presenting ((frameBytes t body).map .byte)) hinv hst hr
    (State.presenting_raw hi _) hL (frameBytes_eq_wireFrame t body) (.inl rfl) (.inl rfl)
  refine ⟨?_, hrun.trans (congrArg _ (State.presenting_afterEvent he hi _ _))⟩
  obtain ⟨u, hu, hout⟩ := runSteps_last (n := (frameBytes t body).length - 1) (by exact hr) hrun
  exact ⟨u, hu, hout⟩

/-- Settles O59: a length byte that is no marker may stand on the wire as it is. -/
theorem rawLengthRoundTrip : Obligations.RawLengthRoundTrip := by
  intro s t body hinv hst he hi hr hL hhi hlo
  have hmax := s.maxLen.le_max
  have hlen := frameLength_toNat (body := body) (by omega)
  have hhi' : lengthHi (frameLength body) ≠ Config.escMark := by
    intro h
    exact hhi (by rw [← hlen, ← lengthHi_toNat, h]; rfl)
  have hlo' : lengthLo (frameLength body) ≠ Config.escMark := by
    intro h
    exact hlo (by rw [← hlen, ← lengthLo_toNat, h]; rfl)
  have hrun := runSteps_validFrame (s := s.presenting ((frameRawLenBytes t body).map .byte)) hinv hst hr
    (State.presenting_raw hi _) hL (frameRawLenBytes_eq_wireFrame t body) (.inr ⟨rfl, hhi'⟩) (.inr ⟨rfl, hlo'⟩)
  exact hrun.trans (congrArg _ (State.presenting_afterEvent he hi _ _))

/-- Settles O60: the corrupt frame leaves the idle block with a `ChecksumError` out, which the start marker of the next
frame hands over; that frame runs as from any idle state. -/
theorem resynchronisesAfterACorruptChecksum : Obligations.ResynchronisesAfterACorruptChecksum := by
  intro s t t' wrong body body' hinv hst he hi hr hL hL' hwrong hmark corrupt stream
  have hcorrupt : corrupt = wireFrame (stuffBytes [lengthHi (frameLength body)])
      (stuffBytes [lengthLo (frameLength body)]) (t :: body) [wrong] := by
    rw [wireFrame, ← stuffBytes_cons (lengthHi _), ← List.append_assoc]
    rfl
  have hin : (s.presenting (stream.map .byte)).input = rawPins corrupt ++ (rawPins (frameBytes t' body') ++ []) := by
    rw [State.presenting_raw hi, rawPins_append, List.append_assoc]
  have hfirst := runSteps_corruptFrame (s := s.presenting (stream.map .byte)) hinv hst hr hin hL hcorrupt hwrong hmark
  have hsecond := runSteps_validFrame (ps := [])
    (s := (s.presenting (stream.map .byte)).afterEvent (.error .checksumError) (rawPins (frameBytes t' body') ++ []))
    hinv hst hr rfl hL' (frameBytes_eq_wireFrame t' body') (.inl rfl) (.inl rfl)
  have hlen : stream.length = corrupt.length + (frameBytes t' body').length := List.length_append
  rw [hlen, runSteps_add, hfirst, andThen_next, hsecond]
  refine ⟨_, rfl, ?_⟩
  rw [State.afterEvent_outputs, State.afterEvent_outputs, List.append_assoc]
  rfl

end Sys2Proof.Machine
end

section
/-! Encodings: what each decoder reads is what the encoder writes (30_encoding sections 1 to 5). -/

namespace Sys2Proof.Machine

/-! ### Decode of encode -/

/-- The row of the raw pair `7D, y`: R54's table names four, and ESCPAIR_ANY is every other one. -/
def pairRow (y : Byte) : Instr :=
  if y = 0x5E then .escPair7E else if y = 0x5D then .escPair7D else if y = 0x31 then .escPair11
  else if y = 0x33 then .escPair13 else .escPairAny y

theorem decodePair_eq_ok {c : Ctx} {x y : Byte} {i : Instr} : decodePair c x y = .ok i ↔
    x = Config.escMark ∧ c.inFrame = true ∧ y ≠ Config.escMark ∧ i = pairRow y := by
  have hrow : Except.ok (pairRow y) = if y = 0x5E then .ok .escPair7E else if y = 0x5D then .ok .escPair7D
      else if y = 0x31 then .ok .escPair11 else if y = 0x33 then .ok .escPair13
      else Except.ok (ε := DecodeError) (.escPairAny y) := by
    simp only [pairRow, apply_ite (Except.ok (ε := DecodeError))]
  rw [decodePair, ← hrow]
  split
  next hx => exact ⟨nofun, fun h => absurd h.1 hx⟩
  split
  next hf => exact ⟨nofun, fun h => by simp [h.2.1] at hf⟩
  split
  next hy => exact ⟨nofun, fun h => absurd hy h.2.2.1⟩
  next hx hf hy =>
    have hframe : c.inFrame = true := by simpa using hf
    exact ⟨fun h => ⟨not_not.1 hx, hframe, hy, (Except.ok.inj h).symm⟩, fun h => congrArg _ h.2.2.2.symm⟩

theorem decodeLogical_rllTooLarge {c : Ctx} {v : Byte} (h : c.st = .readLengthLow)
    (hL : c.maxLen.value < (withLowLength c.len v).toNat) : decodeLogical c v = .ok (.rllTooLarge v) := by
  have hfits : ¬ c.lengthFits v = true := fun hf => Nat.not_lt.2 (Ctx.lengthFits_iff.1 hf) hL
  simp only [decodeLogical, h, if_neg hfits]

theorem decode_bypassed {c : Ctx} {b : Byte} (hw : c.st = .waitStart) : decode c (.bypassed b) = .ok (.unBypass b) := by
  rw [decode, if_neg (not_not_intro hw ∘ Ctx.inFrame_iff.1)]

theorem decodeFrame_encoding {c : Ctx} {L : Half} {span : List Byte} (hw : c.st = .waitStart)
    (hspan : span.length = L.toNat + 1) :
    decodeFrame c (Config.start :: lengthHi L :: lengthLo L :: span) = .ok (.frame L span) := by
  rw [decodeFrame, if_neg (not_not_intro hw ∘ Ctx.inFrame_iff.1), if_neg (not_not_intro rfl), assembleLength_bytes,
    if_neg (not_not_intro hspan)]

theorem decodeType_unknown {t : Byte} {body : List Byte} (h : (Instr.typeUnknown t body).wellFormed = true) :
    decodeType t body = .typeUnknown t body := by
  obtain ⟨h90, h8B, h88, h97, h17⟩ := of_decide_eq_true h
  rw [decodeType, if_neg h90, if_neg h8B, if_neg h88, if_neg h97, if_neg h17]

/-- Settles O43: the rows without an encoding are no case; each of the others is read back by the decoder of its
place, given its rule's condition and its operands' values. -/
theorem decodeOfEncodeIsTheInstruction : Obligations.DecodeOfEncodeIsTheInstruction := by
  intro c i k hwf ha hk
  cases i with
  | doneOk | doneBadCk | doneEmpty | ckClear | ckAdd | ckValue | ckCheck | dispatch | stuff | frameEnc | frameRawLen =>
    cases hk
  | reset | unEos | noByte | typeReceive | typeTransmissionStatus | typeAtResponse | typeRemoteAtResponse
  | typeRemoteAtRequestOutbound | errChecksumError | errFrameTooLarge | errEscapeSequenceError | errEmptyFrame
  | tagUnknown | tagReceive | tagTransmissionStatus | tagAtResponse | tagRemoteAtResponse =>
    cases hk
    rfl
  | wsStart =>
    cases hk
    exact congrArg Except.ok (decodeRaw_start (applies_wsStart.1 ha))
  | wsSkip b =>
    cases hk
    obtain ⟨hw, hb⟩ := applies_wsSkip.1 ha
    exact congrArg Except.ok (decodeRaw_skip hw hb)
  | unBypass b =>
    cases hk
    exact decode_bypassed (applies_unBypass.1 ha)
  | unEsc =>
    cases hk
    exact congrArg Except.ok (decodeRaw_escMark (applies_unEsc.1 ha))
  | unXor b =>
    cases hk
    obtain ⟨hf, he, hb⟩ := applies_unXor.1 ha
    exact congrArg Except.ok (decodeRaw_unXor hf he hb)
  | unPass b =>
    cases hk
    obtain ⟨hf, he, hb⟩ := applies_unPass.1 ha
    exact congrArg Except.ok (decodeRaw_unPass hf he hb)
  | escPair7E | escPair7D | escPair11 | escPair13 =>
    cases hk
    exact decodePair_eq_ok.2 ⟨rfl, ha, by decide, rfl⟩
  | escPairAny b =>
    cases hk
    obtain ⟨hf, hb⟩ := applies_escPairAny.1 ha
    obtain ⟨-, h5E, h5D, h31, h33⟩ := of_decide_eq_true hwf
    refine decodePair_eq_ok.2 ⟨rfl, Ctx.inFrame_iff.2 hf, hb, ?_⟩
    rw [pairRow, if_neg h5E, if_neg h5D, if_neg h31, if_neg h33]
  | rlhByte v =>
    cases hk
    exact decodeLogical_rlhByte (applies_rlhByte.1 ha)
  | rllAccept v =>
    cases hk
    obtain ⟨hst, hL⟩ := applies_rllAccept.1 ha
    exact decodeLogical_rllAccept hst hL
  | rllTooLarge v =>
    cases hk
    obtain ⟨hst, hL⟩ := applies_rllTooLarge.1 ha
    exact decodeLogical_rllTooLarge hst hL
  | rbStore v =>
    cases hk
    obtain ⟨hst, hr⟩ := applies_rbStore.1 ha
    exact decodeLogical_rbStore hst hr
  | rbLast v =>
    cases hk
    obtain ⟨hst, hr⟩ := applies_rbLast.1 ha
    exact decodeLogical_rbLast hst hr
  | frame L span =>
    cases hk
    obtain ⟨hw, hspan⟩ := applies_frame.1 ha
    exact decodeFrame_encoding hw hspan
  | typeUnknown t body =>
    cases hk
    exact congrArg Except.ok (decodeType_unknown hwf)

/-! ### Encode of decode -/

/-- The instruction `i` is the well-formed, applicable row that the code `k` encodes. -/
def Reads (c : Ctx) (k : Code) (i : Instr) : Prop :=
  i.wellFormed = true ∧ i.applies c = true ∧ encode i = some k

section Reads

variable {c : Ctx} {i : Instr}

theorem decodeRaw_wellFormed (c : Ctx) (b : Byte) : (decodeRaw c b).wellFormed = true := by
  unfold decodeRaw
  split
  · split
    · rfl
    · split <;> exact decide_eq_true ‹_›
  · split
    · rfl
    · exact decide_eq_true ‹_›

theorem encode_decodeRaw (c : Ctx) (b : Byte) : encode (decodeRaw c b) = some (.item (.byte b)) := by
  unfold decodeRaw
  split
  · split
    next hb => rw [hb]; rfl
    · split <;> rfl
  · split
    next hb => rw [hb]; rfl
    · rfl

theorem decodeItem_reads (c : Ctx) (it : Item) : Reads c (.item it) (decodeItem c it) := by
  cases it with
  | byte b => exact ⟨decodeRaw_wellFormed c b, decodeRaw_applies c b, encode_decodeRaw c b⟩
  | eos | reset | none => exact ⟨rfl, rfl, rfl⟩

theorem bypassed_reads {b : Byte} (h : decode c (.bypassed b) = .ok i) : Reads c (.bypassed b) i := by
  rw [decode] at h
  split at h
  · cases h
  next hf =>
    cases h
    have hw : c.st = .waitStart := not_not.1 (mt Ctx.inFrame_iff.2 hf)
    exact ⟨rfl, applies_unBypass.2 hw, rfl⟩

theorem pairRow_reads {y : Byte} (hf : c.inFrame = true) (hy : y ≠ Config.escMark) :
    Reads c (.pair Config.escMark y) (pairRow y) := by
  unfold pairRow
  split
  next h => rw [h]; exact ⟨rfl, hf, rfl⟩
  split
  next h => rw [h]; exact ⟨rfl, hf, rfl⟩
  split
  next h => rw [h]; exact ⟨rfl, hf, rfl⟩
  split
  next h => rw [h]; exact ⟨rfl, hf, rfl⟩
  next h5E h5D h31 h33 =>
    exact ⟨decide_eq_true ⟨hy, h5E, h5D, h31, h33⟩, applies_escPairAny.2 ⟨Ctx.inFrame_iff.1 hf, hy⟩, rfl⟩

theorem decodePair_reads {x y : Byte} (h : decodePair c x y = .ok i) : Reads c (.pair x y) i := by
  obtain ⟨rfl, hf, hy, rfl⟩ := decodePair_eq_ok.1 h
  exact pairRow_reads hf hy

theorem decodeLogical_reads {v : Byte} (h : decodeLogical c v = .ok i) : Reads c (.logical v) i := by
  have ha := decodeLogical_applies h
  unfold decodeLogical at h
  split at h
  · cases h
  · cases h
    exact ⟨rfl, ha, rfl⟩
  · split at h <;> cases h <;> exact ⟨rfl, ha, rfl⟩
  · split at h <;> cases h <;> exact ⟨rfl, ha, rfl⟩

theorem decodeFrame_reads {bytes : List Byte} (h : decodeFrame c bytes = .ok i) : Reads c (.frame bytes) i := by
  unfold decodeFrame at h
  split at h
  next m hi lo span =>
    split at h
    · cases h
    next hf =>
    split at h
    · cases h
    next hm =>
    split at h
    · cases h
    next hspan =>
    cases h
    have hw : c.st = .waitStart := not_not.1 (mt Ctx.inFrame_iff.2 hf)
    refine ⟨decide_eq_true (not_not.1 hspan), applies_frame.2 ⟨hw, not_not.1 hspan⟩, ?_⟩
    rw [encode, lengthHi_assemble, lengthLo_assemble, not_not.1 hm]
  · cases h

theorem decodeType_reads (c : Ctx) (t : Byte) (body : List Byte) :
    Reads c (.typed (t :: body)) (decodeType t body) := by
  unfold decodeType
  split
  next h => rw [h]; exact ⟨rfl, rfl, rfl⟩
  split
  next h => rw [h]; exact ⟨rfl, rfl, rfl⟩
  split
  next h => rw [h]; exact ⟨rfl, rfl, rfl⟩
  split
  next h => rw [h]; exact ⟨rfl, rfl, rfl⟩
  split
  next h => rw [h]; exact ⟨rfl, rfl, rfl⟩
  next h90 h8B h88 h97 h17 =>
    exact ⟨decide_eq_true ⟨h90, h8B, h88, h97, h17⟩, applies_typeUnknown.2 ⟨h90, h8B, h88, h97⟩, rfl⟩

theorem decodeErr_reads {code : Code3} (h : decodeErr code = .ok i) : Reads c (.evErr code) i := by
  unfold decodeErr at h
  split at h
  next hcode => cases h; rw [hcode]; exact ⟨rfl, rfl, rfl⟩
  split at h
  next hcode => cases h; rw [hcode]; exact ⟨rfl, rfl, rfl⟩
  split at h
  next hcode => cases h; rw [hcode]; exact ⟨rfl, rfl, rfl⟩
  split at h
  next hcode => cases h; rw [hcode]; exact ⟨rfl, rfl, rfl⟩
  cases h

theorem decodeTag_reads {code : Code3} (h : decodeTag code = .ok i) : Reads c (.evTag code) i := by
  unfold decodeTag at h
  split at h
  next hcode => cases h; rw [hcode]; exact ⟨rfl, rfl, rfl⟩
  split at h
  next hcode => cases h; rw [hcode]; exact ⟨rfl, rfl, rfl⟩
  split at h
  next hcode => cases h; rw [hcode]; exact ⟨rfl, rfl, rfl⟩
  split at h
  next hcode => cases h; rw [hcode]; exact ⟨rfl, rfl, rfl⟩
  split at h
  next hcode => cases h; rw [hcode]; exact ⟨rfl, rfl, rfl⟩
  cases h

end Reads

/-- Settles O44: place by place, each decoder answers the row of the code it was given, or none. -/
theorem encodeOfDecodeIsTheCode : Obligations.EncodeOfDecodeIsTheCode := by
  intro c k i h
  cases k with
  | item it =>
    cases h
    exact decodeItem_reads c it
  | bypassed b => exact bypassed_reads h
  | pair x y => exact decodePair_reads h
  | logical v => exact decodeLogical_reads h
  | frame bytes => exact decodeFrame_reads h
  | typed bytes =>
    cases bytes with
    | nil => cases h
    | cons t body =>
      cases h
      exact decodeType_reads c t body
  | evErr code => exact decodeErr_reads h
  | evTag code => exact decodeTag_reads h

/-- Settles O42: closed words, each evaluated by the decoder. -/
theorem tableWordsDecode : Obligations.TableWordsDecode := by
  unfold Obligations.TableWordsDecode
  decide

end Sys2Proof.Machine
end

section
/-! Unit CK: the check, the laws of the checksum and what a flipped bit does (40_checksum R70 to R74). -/

namespace Sys2Proof.Machine

theorem exec_ckAdd (v : Byte) (s : State) : exec (.ckAdd v) s = .next { s with sum := s.sum + v } := rfl

/-- Settles O26: the addition of bytes is modulo 256. -/
theorem accumulatorClearsAndAddsModulo256 : Obligations.AccumulatorClearsAndAddsModulo256 := by
  intro s v
  have hsum : s.sum + v = BitVec.ofNat 8 ((s.sum.toNat + v.toNat) % 256) := by
    apply BitVec.eq_of_toNat_eq
    simp
  exact ⟨rfl, by rw [exec_ckAdd, hsum]⟩

/-- A byte is the checksum of a sequence exactly when its number is (40_checksum R72). -/
theorem eq_ck_iff {bs : List Byte} {c : Byte} : c = ck bs ↔ c.toNat = 255 - (bs.map BitVec.toNat).sum % 256 := by
  rw [← BitVec.toNat_inj, ck_toNat, sumBytes_eq_sum]

theorem exec_ckCheck_seq (bs : List Byte) (c : Byte) (s : State) :
    exec (.ckCheck (.seq bs) c) s = .next (s.withResult (.truth (c == ck bs))) := rfl

theorem exec_ckCheck_register (c : Byte) (s : State) :
    exec (.ckCheck .register c) s = .next (s.withResult (.truth (c == Config.ckBase - s.sum))) := rfl

/-- Settles O28: CK_CHECK compares bytes, and that is comparing their numbers (`eq_ck_iff`). -/
theorem ckCheckComparesWithTheValue : Obligations.CkCheckComparesWithTheValue := by
  intro s bs c
  rw [exec_ckCheck_seq, exec_ckCheck_register, beq_eq_decide, beq_eq_decide, decide_eq_decide.2 eq_ck_iff]
  exact ⟨rfl, rfl⟩

/-! ### The laws -/

theorem sumMod_append (xs ys : List Byte) : sumMod (xs ++ ys) = sumMod xs + sumMod ys := by
  rw [sumMod, sumBytes_append, BitVec.ofNat_add, sumMod, sumMod]

theorem sumMod_cons (v : Byte) (vs : List Byte) : sumMod (v :: vs) = v + sumMod vs := by
  rw [sumMod, sumBytes, BitVec.ofNat_add, BitVec.ofNat_toNat, BitVec.setWidth_eq, sumMod]

theorem sumMod_zeros (n : Nat) : sumMod (List.replicate n 0) = 0 := by
  induction n with
  | zero => rfl
  | succ n ih => rw [List.replicate_succ, sumMod_cons, ih, add_zero]

theorem sumMod_perm {bs bs' : List Byte} (h : bs.Perm bs') : sumMod bs = sumMod bs' := by
  rw [sumMod, sumMod, sumBytes_eq_sum, sumBytes_eq_sum, (h.map BitVec.toNat).sum_eq]

/-- Settles O29: all three laws are about the sum, of which the checksum is the complement. -/
theorem checksumLaws : Obligations.ChecksumLaws := by
  refine ⟨fun bs c => ?_, fun bs bs' h => ?_, fun bs n => ?_⟩
  · have := c.isLt
    rw [eq_ck_iff]
    omega
  · rw [ck, ck, sumMod_perm h]
  · rw [ck, ck, sumMod_append, sumMod_zeros, add_zero]

/-! ### Flipped bits -/

theorem ck_inj {bs bs' : List Byte} : ck bs = ck bs' ↔ sumMod bs = sumMod bs' := by
  rw [ck_eq_not_sumMod, ck_eq_not_sumMod, BitVec.not_inj]

/-- The mask of one of the eight bits is not 0, so flipping that bit changes a byte. -/
theorem flip_ne {k : Nat} (hk : k < 8) (v : Byte) : v ^^^ ((1 : Byte) <<< k) ≠ v := by
  intro h
  have hmask : (1 : Byte) <<< k = 0 := xor_left_eq_self_iff.1 h
  exact absurd hmask ((by decide : ∀ k < 8, (1 : Byte) <<< k ≠ 0) k hk)

/-- Settles O30: a flipped bit changes its byte (`flip_ne`), hence the sum, hence its complement. -/
theorem singleBitFlipsAreDetected : Obligations.SingleBitFlipsAreDetected := by
  intro xs ys v k hk
  refine ⟨fun h => ?_, flip_ne hk _⟩
  rw [ck_inj, sumMod_append, sumMod_append, sumMod_cons, sumMod_cons, BitVec.add_right_inj, BitVec.add_left_inj] at h
  exact flip_ne hk v h

end Sys2Proof.Machine
end

section
/-! Unit PD: the field view and the packet's tag (43_dispatcher R110 to R122). -/

namespace Sys2Proof.Machine

/-! ### The places of a body -/

section Places

variable {body pre mid post : List Byte} {off w : Nat} {b : Byte}

theorem placeBytes_bytes (h : body = pre ++ (mid ++ post)) (hoff : pre.length = off) (hw : mid.length = w) :
    placeBytes body (.bytes off w) = mid := by
  rw [placeBytes, h, List.drop_left' hoff, List.take_left' hw]

theorem placeBytes_upToLast (h : body = pre ++ (mid ++ [b])) (hoff : pre.length = off) :
    placeBytes body (.upToLast off) = mid := by
  have hw : mid.length = body.length - 1 - off := by
    rw [h, List.length_append, List.length_append, List.length_singleton]
    omega
  rw [placeBytes, ← hw, h, List.drop_left' hoff, List.take_left' rfl]

theorem placeBytes_last (h : body = pre ++ [b]) : placeBytes body .last = [b] := by
  have hoff : pre.length = body.length - 1 := by rw [h, List.length_append, List.length_singleton, Nat.add_sub_cancel]
  rw [placeBytes, ← hoff, h, List.drop_left' rfl]

end Places

theorem view_short {t : Tag} {body : List Byte} (h : body.length < minBody t) : view t body = none := if_pos h

theorem view_long {t : Tag} {body : List Byte} (h : minBody t ≤ body.length) :
    view t body = some ((viewTable t).map fun f => (f.1, placeBytes body f.2)) := if_neg (Nat.not_lt.2 h)

theorem exec_typeReceive (body : List Byte) (s : State) :
    exec (.typeReceive body) s = .next (s.withResult (.variant .receive (view .receive body))) := rfl

theorem exec_typeTransmissionStatus (body : List Byte) (s : State) : exec (.typeTransmissionStatus body) s =
    .next (s.withResult (.variant .transmissionStatus (view .transmissionStatus body))) := rfl

theorem exec_typeAtResponse (body : List Byte) (s : State) :
    exec (.typeAtResponse body) s = .next (s.withResult (.variant .atResponse (view .atResponse body))) := rfl

theorem exec_typeRemoteAtResponse (body : List Byte) (s : State) : exec (.typeRemoteAtResponse body) s =
    .next (s.withResult (.variant .remoteAtResponse (view .remoteAtResponse body))) := rfl

/-- Settles O33: each bound is the variant's minimum. -/
theorem shortBodyHasNoFields : Obligations.ShortBodyHasNoFields := by
  intro s body
  refine ⟨fun h => ?_, fun h => ?_, fun h => ?_, fun h => ?_⟩
  · rw [exec_typeReceive, view_short h]; rfl
  · rw [exec_typeTransmissionStatus, view_short h]; rfl
  · rw [exec_typeAtResponse, view_short h]; rfl
  · rw [exec_typeRemoteAtResponse, view_short h]; rfl

section Views

variable {long short cmd payload body : List Byte} {fid status lqi : Byte}

theorem view_receive (hb : body = long ++ short ++ payload ++ [lqi]) (hl : long.length = 8) (hs : short.length = 2) :
    view .receive body =
      some [(.sourceLongAddr, long), (.sourceShortAddr, short), (.payload, payload), (.linkQuality, [lqi])] := by
  have hmin : minBody .receive ≤ body.length := by simp [hb, minBody, hl, hs]; omega
  have hlong : placeBytes body (.bytes 0 8) = long :=
    placeBytes_bytes (pre := []) (post := short ++ payload ++ [lqi]) (by simp [hb]) rfl hl
  have hshort : placeBytes body (.bytes 8 2) = short :=
    placeBytes_bytes (pre := long) (post := payload ++ [lqi]) (by simp [hb]) hl hs
  have hpayload : placeBytes body (.upToLast 10) = payload :=
    placeBytes_upToLast (pre := long ++ short) (b := lqi) (by simp [hb]) (by simp [hl, hs])
  rw [view_long hmin]
  simp only [viewTable, List.map_cons, List.map_nil, hlong, hshort, hpayload, placeBytes_last hb]

theorem view_transmissionStatus (hb : body = [fid] ++ short ++ [status] ++ payload ++ [lqi])
    (hs : short.length = 2) :
    view .transmissionStatus body =
      some [(.frameId, [fid]), (.destinationShortAddr, short), (.statusCode, [status]), (.linkQuality, [lqi])] := by
  have hmin : minBody .transmissionStatus ≤ body.length := by simp [hb, minBody, hs]; omega
  have hfid : placeBytes body (.bytes 0 1) = [fid] :=
    placeBytes_bytes (pre := []) (post := short ++ [status] ++ payload ++ [lqi]) (by simp [hb]) rfl rfl
  have hshort : placeBytes body (.bytes 1 2) = short :=
    placeBytes_bytes (pre := [fid]) (post := [status] ++ payload ++ [lqi]) (by simp [hb]) rfl hs
  have hstatus : placeBytes body (.bytes 3 1) = [status] :=
    placeBytes_bytes (pre := [fid] ++ short) (post := payload ++ [lqi]) (by simp [hb]) (by simp [hs]) rfl
  rw [view_long hmin]
  simp only [viewTable, List.map_cons, List.map_nil, hfid, hshort, hstatus, placeBytes_last hb]

theorem view_atResponse (hb : body = [fid] ++ cmd ++ payload ++ [lqi]) (hc : cmd.length = 2) :
    view .atResponse body =
      some [(.frameId, [fid]), (.command, cmd), (.payload, payload), (.linkQuality, [lqi])] := by
  have hmin : minBody .atResponse ≤ body.length := by simp [hb, minBody, hc]; omega
  have hfid : placeBytes body (.bytes 0 1) = [fid] :=
    placeBytes_bytes (pre := []) (post := cmd ++ payload ++ [lqi]) (by simp [hb]) rfl rfl
  have hcmd : placeBytes body (.bytes 1 2) = cmd :=
    placeBytes_bytes (pre := [fid]) (post := payload ++ [lqi]) (by simp [hb]) rfl hc
  have hpayload : placeBytes body (.upToLast 3) = payload :=
    placeBytes_upToLast (pre := [fid] ++ cmd) (b := lqi) (by simp [hb]) (by simp [hc])
  rw [view_long hmin]
  simp only [viewTable, List.map_cons, List.map_nil, hfid, hcmd, hpayload, placeBytes_last hb]

theorem view_remoteAtResponse (hb : body = [fid] ++ long ++ short ++ cmd ++ [status] ++ payload ++ [lqi])
    (hl : long.length = 8) (hs : short.length = 2) (hc : cmd.length = 2) :
    view .remoteAtResponse body =
      some [(.frameId, [fid]), (.sourceLongAddr, long), (.sourceShortAddr, short), (.command, cmd),
        (.statusCode, [status]), (.payload, payload), (.linkQuality, [lqi])] := by
  have hmin : minBody .remoteAtResponse ≤ body.length := by simp [hb, minBody, hl, hs, hc]; omega
  have hfid : placeBytes body (.bytes 0 1) = [fid] :=
    placeBytes_bytes (pre := []) (post := long ++ short ++ cmd ++ [status] ++ payload ++ [lqi]) (by simp [hb]) rfl rfl
  have hlong : placeBytes body (.bytes 1 8) = long :=
    placeBytes_bytes (pre := [fid]) (post := short ++ cmd ++ [status] ++ payload ++ [lqi]) (by simp [hb]) rfl hl
  have hshort : placeBytes body (.bytes 9 2) = short :=
    placeBytes_bytes (pre := [fid] ++ long) (post := cmd ++ [status] ++ payload ++ [lqi]) (by simp [hb])
      (by simp [hl]) hs
  have hcmd : placeBytes body (.bytes 11 2) = cmd :=
    placeBytes_bytes (pre := [fid] ++ long ++ short) (post := [status] ++ payload ++ [lqi]) (by simp [hb])
      (by simp [hl, hs]) hc
  have hstatus : placeBytes body (.bytes 13 1) = [status] :=
    placeBytes_bytes (pre := [fid] ++ long ++ short ++ cmd) (post := payload ++ [lqi]) (by simp [hb])
      (by simp [hl, hs, hc]) rfl
  have hpayload : placeBytes body (.upToLast 14) = payload :=
    placeBytes_upToLast (pre := [fid] ++ long ++ short ++ cmd ++ [status]) (b := lqi) (by simp [hb])
      (by simp [hl, hs, hc])
  rw [view_long hmin]
  simp only [viewTable, List.map_cons, List.map_nil, hfid, hlong, hshort, hcmd, hstatus, hpayload, placeBytes_last hb]

end Views

/-- Settles O32: each row drives its variant's view, whose places cut a packed body at its parts. -/
theorem variantFieldsArePackedInOrder : Obligations.VariantFieldsArePackedInOrder := by
  intro s long short cmd payload fid status lqi hl hs hc
  refine ⟨?_, ?_, ?_, ?_⟩
  · rw [exec_typeReceive, view_receive rfl hl hs]; rfl
  · rw [exec_typeTransmissionStatus, view_transmissionStatus rfl hs]; rfl
  · rw [exec_typeAtResponse, view_atResponse rfl hc]; rfl
  · rw [exec_typeRemoteAtResponse, view_remoteAtResponse rfl hl hs hc]; rfl

/-! ### The packet and its type row -/

/-- The row of a type byte drives the tag that DISPATCH gives it, with that tag's view (43_dispatcher R110 to R119). -/
theorem exec_decodeType (t : Byte) (body : List Byte) (s : State) :
    exec (decodeType t body) s = .next (s.withResult (.variant (dispatchTag t) (view (dispatchTag t) body))) := by
  unfold decodeType dispatchTag
  by_cases h90 : t = Config.tReceive
  · simp only [if_pos h90, exec_typeReceive]
  by_cases h8B : t = Config.tTxStatus
  · simp only [if_neg h90, if_pos h8B, exec_typeTransmissionStatus]
  by_cases h88 : t = Config.tAtResp
  · simp only [if_neg h90, if_neg h8B, if_pos h88, exec_typeAtResponse]
  by_cases h97 : t = Config.tRAtResp
  · simp only [if_neg h90, if_neg h8B, if_neg h88, if_pos h97, exec_typeRemoteAtResponse]
  simp only [if_neg h90, if_neg h8B, if_neg h88, if_neg h97]
  split
  · exact exec_typeRemoteAtRequestOutbound body s
  · exact exec_typeUnknown h90 h8B h88 h97 body s

/-- Settles O35: the packet carries the tag and view that the row drives (`exec_decodeType`). -/
theorem packetAgreesWithItsTypeRow : Obligations.PacketAgreesWithItsTypeRow :=
  fun s t body _ => exec_decodeType t body s

/-! ### The ports -/

/-- The port shows the length of every body that the block can put out (10_state R10). -/
theorem State.evLen_toNat {s : State} {p : Packet} (h : s.event = some (.packet p)) (hp : p.body.length < 65535) :
    s.evLen.map BitVec.toNat = some (1 + p.body.length) := by
  simp only [State.evLen, State.evPacket, h, Option.map_some, BitVec.toNat_ofNat]
  rw [Nat.mod_eq_of_lt (by omega)]

/-- The four codes of `ev_err` (60_exceptions R140). -/
theorem exists_errCode_iff (code : Code3) : (∃ e, errCode e = code) ↔ 1 ≤ code.toNat ∧ code.toNat ≤ 4 := by
  constructor
  · rintro ⟨e, rfl⟩
    cases e <;> decide
  · intro h
    obtain rfl | rfl | rfl | rfl :=
      (by decide : ∀ c : Code3, 1 ≤ c.toNat ∧ c.toNat ≤ 4 → c = 1 ∨ c = 2 ∨ c = 3 ∨ c = 4) code h
    exacts [⟨.checksumError, rfl⟩, ⟨.frameTooLarge, rfl⟩, ⟨.escapeSequenceError, rfl⟩, ⟨.emptyFrame, rfl⟩]

/-- The five codes of `ev_tag` (43_dispatcher R111). -/
theorem exists_tagCode_iff (code : Code3) : (∃ g, tagCode g = code) ↔ code.toNat ≤ 4 := by
  constructor
  · rintro ⟨g, rfl⟩
    cases g <;> decide
  · intro h
    obtain rfl | rfl | rfl | rfl | rfl :=
      (by decide : ∀ c : Code3, c.toNat ≤ 4 → c = 0 ∨ c = 1 ∨ c = 2 ∨ c = 3 ∨ c = 4) code h
    exacts [⟨.unknown, rfl⟩, ⟨.receive, rfl⟩, ⟨.transmissionStatus, rfl⟩, ⟨.atResponse, rfl⟩,
      ⟨.remoteAtResponse, rfl⟩]

/-- The ports while a packet waits. -/
theorem State.ports_packet {s : State} {p : Packet} (h : s.event = some (.packet p)) :
    s.evValid = true ∧ s.evKind = some 0 ∧ s.evErr = none ∧ s.evTag = some (tagCode p.tag) ∧
    s.evType = some p.frameType ∧ s.evBody = some p.body ∧ s.evCksum = some p.cksum := by
  simp [State.evValid, State.evKind, State.evErr, State.evTag, State.evType, State.evBody, State.evCksum,
    State.evPacket, h]

/-- The ports while an error waits: its code only. -/
theorem State.ports_error {s : State} {e : ErrCode} (h : s.event = some (.error e)) :
    s.evValid = true ∧ s.evKind = some 1 ∧ s.evTag = none ∧ s.evErr = some (errCode e) ∧
    s.evType = none ∧ s.evLen = none ∧ s.evBody = none ∧ s.evCksum = none := by
  simp [State.evValid, State.evKind, State.evErr, State.evTag, State.evType, State.evLen, State.evBody,
    State.evCksum, State.evPacket, h]

/-- The ports while nothing waits. -/
theorem State.ports_none {s : State} (h : s.event = none) :
    s.evValid = false ∧ s.evKind = none ∧ s.evErr = none ∧ s.evTag = none := by
  simp [State.evValid, State.evKind, State.evErr, State.evTag, State.evPacket, h]

/-- Settles O36: the ports by what waits at them, the codes by their two tables, `idle` and `in_ready` by theirs. -/
theorem portsShowTheEventsCode : Obligations.PortsShowTheEventsCode := by
  refine ⟨fun s => ⟨rfl, rfl, rfl, rfl, rfl⟩, fun s p h => ?_, fun s e h => State.ports_error h,
    fun s h => State.ports_none h, ⟨rfl, rfl, rfl, rfl⟩, ⟨rfl, rfl, rfl, rfl, rfl⟩, exists_errCode_iff,
    exists_tagCode_iff, fun s => ⟨State.idle_iff, fun hinv hidle => ?_⟩, fun s => State.inReady_eq_false_iff⟩
  · obtain ⟨hvalid, hkind, herr, htag, htype, hbody, hck⟩ := State.ports_packet h
    exact ⟨hvalid, hkind, herr, htag, htype, hbody, hck, State.evLen_toNat h⟩
  · obtain ⟨hclear, -⟩ := hinv
    obtain ⟨hesc, -, -, -, hbuf⟩ := hclear (State.idle_iff.1 hidle)
    exact ⟨hesc, hbuf⟩

end Sys2Proof.Machine
end

section
/-! The remaining single rules: the encoders' wire form (44_reference_encoder R131, R133), reset (10_state R20, 70_reset
R160), `Eos` (41_unstuffer R84), a byte in `WaitStart` (R83), two rules of the reassembler (R94, R99), and the errors
(60_exceptions R144). -/

namespace Sys2Proof.Machine

theorem exec_frameEnc {t : Byte} {body : List Byte} (h : 1 + body.length ≤ 65535) (s : State) :
    exec (.frameEnc t body) s = .next (s.withResult (.bytes (frameBytes t body))) :=
  whenApplies_pos (i := .frameEnc t body) (decide_eq_true h) _

theorem exec_frameRawLen {t : Byte} {body : List Byte} (h : 1 + body.length ≤ 65535) (s : State) :
    exec (.frameRawLen t body) s = .next (s.withResult (.bytes (frameRawLenBytes t body))) :=
  whenApplies_pos (i := .frameRawLen t body) (decide_eq_true h) _

/-- Settles O41: the two length bytes are those of `frameLength`, which does not wrap within R131's bound. -/
theorem encodersWriteTheWireForm : Obligations.EncodersWriteTheWireForm := by
  intro s t body h
  refine ⟨lengthHi (frameLength body), lengthLo (frameLength body), ?_, ?_, ?_⟩
  · rw [length_toNat, frameLength_toNat h]
  · exact exec_frameEnc h s
  · exact exec_frameRawLen h s

/-- Settles O1: the reset values are written in `State.resetWith`, which `State.reset` is for its own `MAX_LEN`. -/
theorem resetHoldsTheIdleState : Obligations.ResetHoldsTheIdleState :=
  ⟨fun _ => ⟨rfl, rfl, rfl, rfl, rfl, rfl, rfl, rfl, rfl, rfl⟩, Config.resetMaxLen, rfl⟩

theorem State.resetWith_inv (m : MaxLen) : (State.resetWith m).Inv :=
  ⟨fun _ => ⟨rfl, rfl, rfl, rfl, rfl⟩, nofun, nofun, nofun⟩

/-- Settles O47: after reset every register is clear, in `WaitStart`. -/
theorem resetMeetsTheInvariant : Obligations.ResetMeetsTheInvariant :=
  ⟨State.resetWith_inv Config.resetMaxLen, State.resetWith_inv⟩

/-- Settles O5: RESET is `State.applyReset` in every state. -/
theorem resetDropsTheFrameSilently : Obligations.ResetDropsTheFrameSilently := fun _ => rfl

/-- Settles O7: UN_EOS asks for `esc` and nothing else. -/
theorem eosReportsOnlyAPendingEscape : Obligations.EosReportsOnlyAPendingEscape :=
  fun _ => ⟨fun he => if_pos he, fun he => if_neg (Bool.eq_false_iff.1 he)⟩

theorem exec_unBypass {s : State} (hw : s.st = .waitStart) (b : Byte) :
    exec (.unBypass b) s = exec (decodeRaw s.ctx b) s := by
  refine (whenApplies_pos (applies_unBypass.2 hw) _).trans ?_
  split
  next hb =>
    rw [hb, decodeRaw_start (c := s.ctx) hw]
    rfl
  next hb =>
    rw [decodeRaw_skip (c := s.ctx) hw hb]
    rfl

/-- Settles O11: the byte goes to the start rule it decodes to, which knows 0x7E from every other byte. -/
theorem bypassedByteStartsOrIsSkipped : Obligations.BypassedByteStartsOrIsSkipped := by
  intro s b hw
  refine ⟨exec_unBypass hw b, (exec_unBypass hw b).trans ?_⟩
  rw [start_lit]
  by_cases hb : b = Config.start
  · rw [if_pos hb, hb, decodeRaw_start (c := s.ctx) hw, exec_wsStart hw]
  · rw [if_neg hb, decodeRaw_skip (c := s.ctx) hw hb, exec_wsSkip hw hb, ← hw]

/-- Settles O18: the delivery of a low byte whose length does not fit raises `FrameTooLarge`, a frame error; `MAX_LEN`
is at most 65534 (00_scope R5). -/
theorem oversizedLengthIsRejectedAtOnce : Obligations.OversizedLengthIsRejectedAtOnce := by
  intro s v hst L
  refine ⟨fun hL => ?_, fun hL => ?_⟩
  · have hd : decodeLogical s.ctx v = .ok (.rllTooLarge v) := decodeLogical_rllTooLarge hst hL
    refine ⟨hd, (deliver_eq_exec hd).symm.trans ((deliver_tooLarge hst hL).trans ?_)⟩
    exact congrArg _ (s.raise_frameError (by decide))
  · rw [hL]
    exact Nat.lt_succ_of_le s.maxLen.le_max

/-- Settles O23: DONE_EMPTY raises `EmptyFrame`, a frame error. -/
theorem emptyFrameIsReported : Obligations.EmptyFrameIsReported := by
  intro s c hst hrem hc hlen
  exact (doneEmpty_eq hst (not_one_lt_of_eq_one hrem) hc hlen).trans (congrArg _ (s.raise_frameError (by decide)))

theorem exec_errRow (e : ErrCode) (s : State) : exec (errRow e) s = .next (s.raise e) := by cases e <;> rfl

/-- Settles O37: the three frame errors recover to the idle state, the fourth clears `esc` (`State.raise_frameError`,
`State.raise_escapeSequenceError`). -/
theorem errorEntryIsOneStep : Obligations.ErrorEntryIsOneStep := by
  intro s idleWith
  have hframe : ∀ e, e ≠ .escapeSequenceError → exec (errRow e) s = .next (idleWith e) := fun e he =>
    (exec_errRow e s).trans (congrArg _ (s.raise_frameError he))
  exact ⟨hframe .checksumError (by decide), hframe .frameTooLarge (by decide), hframe .emptyFrame (by decide),
    (exec_errRow .escapeSequenceError s).trans (congrArg _ s.raise_escapeSequenceError)⟩

end Sys2Proof.Machine
end
